-- ==== Sys2Proof/Word.lean ====
section
/-! DEFINITION. The three widths of the CKF block's values: 8, 16 and 32 bits (00_scope.md R15). -/

namespace Sys2Proof

/-- A byte: 8 bits, unsigned (R15). -/
abbrev Byte := BitVec 8

/-- A 16-bit value: `CRC`, `CRCOUT`, `STATUS`, a LEN field of an LRC frame. -/
abbrev Half := BitVec 16

/-- A 32-bit value: the command word `CW` and the register `FRM`. -/
abbrev Word := BitVec 32

end Sys2Proof
end

