-- ==== Sys2Proof/Config.lean ====
section
/-! DEFINITION. The parameters of a CKF block instance (00_scope.md R6 to R14): configuration, fixed for the life of
the instance, an argument of every meaning (10_state.md R40; notes/assumptions/1.md). The spec leaves no value free
(93_implementation_defined.md), so there is no opaque constant. -/

namespace Sys2Proof

/-- The CRC-16 variant (R6). `x25` is the default; `ccittFalse` is the spec's mode `FALSE`. -/
inductive CrcMode where
  | x25
  | ccittFalse
deriving DecidableEq, Repr

/-- The parameters of one block instance. `lenBias`'s bound (0 to 255, R7) is in its type; the bounds of `dinMax`
and `rxbufCap` are `Params.wf`. -/
structure Params where
  /-- `CRC_MODE` (R6). -/
  crcMode : CrcMode
  /-- `LEN_BIAS`: LEN of a CRC frame is the payload length plus this (R7). -/
  lenBias : Fin 256
  /-- `STX_BYTE` (R8). -/
  stxByte : Byte
  /-- `ETX_BYTE` (R8). -/
  etxByte : Byte
  /-- `DIN_MAX`: the longest operand a command accepts (R13). -/
  dinMax : Nat
  /-- `RXBUF_CAP`: the capacity of the reassembly buffer (R14). -/
  rxbufCap : Nat
deriving DecidableEq, Repr

/-- The default of every parameter (R6, R7, R8, R13, R14). The values of STX and ETX are general knowledge and
those of CRC_MODE and LEN_BIAS the spec's own choice (notes/assumptions/4.md). -/
def Params.default : Params where
  crcMode := .x25
  lenBias := 2
  stxByte := 0x02#8
  etxByte := 0x03#8
  dinMax := 65540
  rxbufCap := 65540

/-- The constraints on the parameters that their types do not carry: `DIN_MAX` at least 6 (R13) and `RXBUF_CAP` at
least 15 (R14). -/
def Params.wf (p : Params) : Bool :=
  decide (6 ≤ p.dinMax) && decide (15 ≤ p.rxbufCap)

end Sys2Proof
end

