-- ==== Sys2Proof/Syntax.lean ====
section
/-! DEFINITION. The commands of the CKF block, one constructor of `Instr` for each row of the opcode table
(30_encoding.md R76), the operation names and formats of the encoding, and the names of the error codes
(60_exceptions.md R211). -/

namespace Sys2Proof

/-- The names of `STATUS.ERR`'s codes (R211). The numeric values are `Machine.errCode`'s. -/
inductive ErrCode where
  | none
  | checksumMismatch
  | lengthMismatch
  | etxMismatch
  | payloadTooLong
  | tooShort
  | rxOverflow
  | illegalOp
  | operandTooLong
deriving DecidableEq, Repr

/-- The three formats of a command (R72, R73, R74). -/
inductive Format where
  | n
  | d
  | e
deriving DecidableEq, Repr

/-- The fifteen operations that an opcode can select (R76). -/
inductive Op where
  | nop
  | lrcInit
  | lrcFeed
  | lrcCalc
  | lrcCheck
  | crcInit
  | crcFeed
  | crcCalc
  | crcCheck
  | lrcEnc
  | lrcDec
  | crcEnc
  | crcDec
  | rxClear
  | rxAppend
deriving DecidableEq, Repr

/-- A decoded command. A format D command carries its operand `DIN`; CRC_ENC carries CMD, CLASS, IDENT and its
payload `DIN` (R72, R73, R74). -/
inductive Instr where
  | nop
  | lrcInit
  | lrcFeed (din : List Byte)
  | lrcCalc (din : List Byte)
  | lrcCheck (din : List Byte)
  | crcInit
  | crcFeed (din : List Byte)
  | crcCalc (din : List Byte)
  | crcCheck (din : List Byte)
  | lrcEnc (din : List Byte)
  | lrcDec (din : List Byte)
  | crcEnc (cmd cls ident : Byte) (din : List Byte)
  | crcDec (din : List Byte)
  | rxClear
  | rxAppend (din : List Byte)
deriving DecidableEq, Repr

/-- The operation a command performs: its row of the opcode table. -/
def Instr.op : Instr → Op
  | .nop => .nop
  | .lrcInit => .lrcInit
  | .lrcFeed _ => .lrcFeed
  | .lrcCalc _ => .lrcCalc
  | .lrcCheck _ => .lrcCheck
  | .crcInit => .crcInit
  | .crcFeed _ => .crcFeed
  | .crcCalc _ => .crcCalc
  | .crcCheck _ => .crcCheck
  | .lrcEnc _ => .lrcEnc
  | .lrcDec _ => .lrcDec
  | .crcEnc _ _ _ _ => .crcEnc
  | .crcDec _ => .crcDec
  | .rxClear => .rxClear
  | .rxAppend _ => .rxAppend

/-- The operand byte sequence `DIN` of a command; format N has the empty one (R72). -/
def Instr.din : Instr → List Byte
  | .nop => []
  | .lrcInit => []
  | .lrcFeed din => din
  | .lrcCalc din => din
  | .lrcCheck din => din
  | .crcInit => []
  | .crcFeed din => din
  | .crcCalc din => din
  | .crcCheck din => din
  | .lrcEnc din => din
  | .lrcDec din => din
  | .crcEnc _ _ _ din => din
  | .crcDec din => din
  | .rxClear => []
  | .rxAppend din => din

end Sys2Proof
end

