-- ==== Sys2Proof/WellFormed.lean ====
section
/-! DEFINITION. When a command of the syntax is one the block can be given: its operand is no longer than `DIN_MAX`
(30_encoding.md R70, R73, R74). CMD, CLASS and IDENT may take any byte value (41_frame_codec.md R156). -/

namespace Sys2Proof

/-- A command is well formed for an instance when `|DIN|` is at most `DIN_MAX` (R70). -/
def Instr.wellFormed (p : Params) (i : Instr) : Bool :=
  decide (i.din.length ≤ p.dinMax)

end Sys2Proof
end

