-- ==== Sys2Proof/Decode.lean ====
section
/-! DEFINITION. The command encoding of 30_encoding.md part A: the fields of `CW` (R71), the opcode map (R76), the
decode procedure (R77), total on every `CW` and `DIN` and rejecting by name, and the encoder. -/

namespace Sys2Proof

/-- `OP` = `CW[7:0]` (R71). -/
def opField (cw : Word) : Byte := cw.extractLsb' 0 8

/-- `FA` = `CW[15:8]`: the CMD byte in format E (R71, R74). -/
def faField (cw : Word) : Byte := cw.extractLsb' 8 8

/-- `FB` = `CW[23:16]`: the CLASS byte in format E (R71, R74). -/
def fbField (cw : Word) : Byte := cw.extractLsb' 16 8

/-- `FC` = `CW[31:24]`: the IDENT byte in format E (R71, R74). -/
def fcField (cw : Word) : Byte := cw.extractLsb' 24 8

/-- `CW[31:8]`, which formats N and D reserve: it must be 0 (R72, R73). -/
def reservedField (cw : Word) : BitVec 24 := cw.extractLsb' 8 24

/-- The operation that a value of `OP` selects; none where the value is unassigned (R76, R78). -/
def opOfCode (b : Byte) : Option Op :=
  match b.toNat with
  | 0x00 => some .nop
  | 0x01 => some .lrcInit
  | 0x02 => some .lrcFeed
  | 0x03 => some .lrcCalc
  | 0x04 => some .lrcCheck
  | 0x08 => some .crcInit
  | 0x09 => some .crcFeed
  | 0x0A => some .crcCalc
  | 0x0B => some .crcCheck
  | 0x10 => some .lrcEnc
  | 0x11 => some .lrcDec
  | 0x12 => some .crcEnc
  | 0x13 => some .crcDec
  | 0x18 => some .rxClear
  | 0x19 => some .rxAppend
  | _ => none

/-- The format column of the opcode map (R76). -/
def Op.format : Op → Format
  | .nop => .n
  | .lrcInit => .n
  | .lrcFeed => .d
  | .lrcCalc => .d
  | .lrcCheck => .d
  | .crcInit => .n
  | .crcFeed => .d
  | .crcCalc => .d
  | .crcCheck => .d
  | .lrcEnc => .d
  | .lrcDec => .d
  | .crcEnc => .e
  | .crcDec => .d
  | .rxClear => .n
  | .rxAppend => .d

/-- The command that an operation makes of `CW` and `DIN`, with the operand fields its format has (R72 to R75). -/
def Op.instr (o : Op) (cw : Word) (din : List Byte) : Instr :=
  match o with
  | .nop => .nop
  | .lrcInit => .lrcInit
  | .lrcFeed => .lrcFeed din
  | .lrcCalc => .lrcCalc din
  | .lrcCheck => .lrcCheck din
  | .crcInit => .crcInit
  | .crcFeed => .crcFeed din
  | .crcCalc => .crcCalc din
  | .crcCheck => .crcCheck din
  | .lrcEnc => .lrcEnc din
  | .lrcDec => .lrcDec din
  | .crcEnc => .crcEnc (faField cw) (fbField cw) (fcField cw) din
  | .crcDec => .crcDec din
  | .rxClear => .rxClear
  | .rxAppend => .rxAppend din

/-- The decode procedure (R77), its checks in the order R77 lists them: unassigned `OP`, nonzero reserved field,
nonempty `DIN` in format N, `|DIN|` above `DIN_MAX`. -/
def decode (p : Params) (cw : Word) (din : List Byte) : Except ErrCode Instr :=
  match opOfCode (opField cw) with
  | none => .error .illegalOp
  | some o =>
    if o.format ≠ .e ∧ reservedField cw ≠ 0#24 then .error .illegalOp
    else if o.format = .n ∧ din.length ≠ 0 then .error .illegalOp
    else if din.length > p.dinMax then .error .operandTooLong
    else .ok (o.instr cw din)

/-- The value of `OP` that selects an operation: the first column of the opcode map (R76). -/
def Op.code : Op → Byte
  | .nop => 0x00#8
  | .lrcInit => 0x01#8
  | .lrcFeed => 0x02#8
  | .lrcCalc => 0x03#8
  | .lrcCheck => 0x04#8
  | .crcInit => 0x08#8
  | .crcFeed => 0x09#8
  | .crcCalc => 0x0A#8
  | .crcCheck => 0x0B#8
  | .lrcEnc => 0x10#8
  | .lrcDec => 0x11#8
  | .crcEnc => 0x12#8
  | .crcDec => 0x13#8
  | .rxClear => 0x18#8
  | .rxAppend => 0x19#8

/-- `CW` of formats N and D: 24 zero bits above the opcode (R72, R73). -/
def plainWord (o : Op) : Word := 0#24 ++ o.code

/-- The encoder: the command word and the operand of a command (R72, R73, R74). -/
def encode : Instr → Word × List Byte
  | .nop => (plainWord .nop, [])
  | .lrcInit => (plainWord .lrcInit, [])
  | .lrcFeed din => (plainWord .lrcFeed, din)
  | .lrcCalc din => (plainWord .lrcCalc, din)
  | .lrcCheck din => (plainWord .lrcCheck, din)
  | .crcInit => (plainWord .crcInit, [])
  | .crcFeed din => (plainWord .crcFeed, din)
  | .crcCalc din => (plainWord .crcCalc, din)
  | .crcCheck din => (plainWord .crcCheck, din)
  | .lrcEnc din => (plainWord .lrcEnc, din)
  | .lrcDec din => (plainWord .lrcDec, din)
  | .crcEnc cmd cls ident din => (ident ++ cls ++ cmd ++ Op.crcEnc.code, din)
  | .crcDec din => (plainWord .crcDec, din)
  | .rxClear => (plainWord .rxClear, [])
  | .rxAppend din => (plainWord .rxAppend, din)

/-- The command word that stands in the first 32 of an instruction's `nbits` bits; bits above `nbits` are 0. -/
def tableCw (nbits w : Nat) : Word := BitVec.ofNat 32 (w % 2 ^ nbits)

/-- The operand bytes that follow the command word in an instruction of `nbits` bits, the first in bits 39 to 32;
the opcode table's rows have 32 bits, so theirs is the empty operand (notes/assumptions/11.md). -/
def tableDin (nbits w : Nat) : List Byte :=
  (List.range ((nbits - 32) / 8)).map fun k => BitVec.ofNat 8 (w / 2 ^ (32 + 8 * k))

/-- What the decoder reads from an instruction whose bits are `w`, with the default parameters. -/
def decodeTableWord (nbits w : Nat) : Option Instr :=
  match decode Params.default (tableCw nbits w) (tableDin nbits w) with
  | .ok i => some i
  | .error _ => none

end Sys2Proof
end

