-- ==== Sys2Proof/Machine/Consts.lean ====
section
/-! DEFINITION. The constants that the spec fixes for every instance (00_scope.md R9 to R12, 40_checksum.md R110). -/

namespace Sys2Proof.Machine

/-- `ACK_BYTE`, the single-byte ACK sentinel (R9). -/
def ackByte : Byte := 0x01#8

/-- `FIXED_TOTALS`: the total size that a known length byte stands for (R10). -/
def fixedTotal (b : Byte) : Option Nat :=
  if b = 0x04#8 then some 8
  else if b = 0x0B#8 then some 15
  else none

/-- `GENERIC_OVERHEAD` (R11). -/
def genericOverhead : Nat := 4

/-- `LRC_MAX_PAYLOAD`: the largest payload a 16-bit LEN field can declare (R12). -/
def lrcMaxPayload : Nat := 65535

/-- `CRC_INIT_VALUE`, the same in both CRC modes (R24, R110). -/
def crcInitValue : Half := 0xFFFF#16

end Sys2Proof.Machine
end

