-- ==== Sys2Proof/Machine/Checksums.lean ====
section
/-! DEFINITION. The two checksum functions: `lrc` (40_checksum.md R104) and `crc16` in its two modes (R110). -/

namespace Sys2Proof.Machine

/-- Folds bytes into an LRC accumulator by XOR, in index order (R101, R104). -/
def lrcFold (acc : Byte) (bytes : List Byte) : Byte := bytes.foldl (fun a b => a ^^^ b) acc

/-- `lrc(B)`: the XOR of all bytes of `B` (R104). -/
def lrcOf (bytes : List Byte) : Byte := lrcFold 0x00#8 bytes

/-- One bit of mode `X25`: the register shifts right, reflected polynomial 0x8408 (R110). -/
def bitX25 (c : Half) : Half :=
  if c.getLsbD 0 then (c >>> 1) ^^^ 0x8408#16 else c >>> 1

/-- `step_X25(c, b)`: one byte, its bits taken least significant first (R110). -/
def stepX25 (c : Half) (b : Byte) : Half := bitX25^[8] (c ^^^ b.setWidth 16)

/-- One bit of mode `FALSE`: the register shifts left and truncates to 16 bits, polynomial 0x1021 (R110). -/
def bitFalse (c : Half) : Half :=
  if c.getLsbD 15 then (c <<< 1) ^^^ 0x1021#16 else c <<< 1

/-- `step_FALSE(c, b)`: one byte, its bits taken most significant first (R110). -/
def stepFalse (c : Half) (b : Byte) : Half := bitFalse^[8] (c ^^^ (b.setWidth 16 <<< 8))

/-- `step` of the selected mode (R110). -/
def crcStep : CrcMode → Half → Byte → Half
  | .x25 => stepX25
  | .ccittFalse => stepFalse

/-- `fin` of the selected mode: the final XOR of `X25`, nothing in `FALSE` (R25, R110). -/
def crcFin : CrcMode → Half → Half
  | .x25 => fun c => c ^^^ 0xFFFF#16
  | .ccittFalse => fun c => c

/-- Folds bytes into a raw CRC register, in index order (R110, R112). -/
def crcFold (m : CrcMode) (c : Half) (bytes : List Byte) : Half := bytes.foldl (crcStep m) c

/-- `crc16(B)` in mode `m` (R110). -/
def crc16 (m : CrcMode) (bytes : List Byte) : Half := crcFin m (crcFold m crcInitValue bytes)

end Sys2Proof.Machine
end

