-- ==== Sys2Proof/Machine/Operands.lean ====
section
/-! DEFINITION. Reading operands: bytes and slices of a sequence (00_scope.md R16), the two byte orders of the wire
(20_memory.md R51, R52), and zero extension (R15). -/

namespace Sys2Proof.Machine

/-- `v[7:0]` of a 16-bit value (R15). -/
def lo8 (v : Half) : Byte := v.extractLsb' 0 8

/-- `v[15:8]` of a 16-bit value (R15). -/
def hi8 (v : Half) : Byte := v.extractLsb' 8 8

/-- `B[i]` (R16). Every rule uses it with `i < |B|`, so the value 0 past the end is never read
(notes/assumptions/6.md). -/
def byteAt (bytes : List Byte) (i : Nat) : Byte := bytes.getD i 0x00#8

/-- `B[i..j)`: the bytes `i` to `j - 1`, empty when `j ≤ i` (R16). -/
def slice (bytes : List Byte) (i j : Nat) : List Byte := (bytes.drop i).take (j - i)

/-- A big-endian 16-bit length (R51), exact over the naturals: high byte times 256 plus low byte (R17, R151). -/
def bigEndianLen (hi lo : Byte) : Nat := hi.toNat * 256 + lo.toNat

/-- A little-endian 16-bit value: `zext_16(lo) | (zext_16(hi) << 8)` (R52, R114). -/
def littleEndian (lo hi : Byte) : Half := lo.setWidth 16 ||| (hi.setWidth 16 <<< 8)

/-- The bytes of a 16-bit value, low byte first (R52, R54). -/
def lowFirst (v : Half) : List Byte := [lo8 v, hi8 v]

/-- Four bytes packed into a word, the first in bits 7:0 (R34, R157). -/
def packBytes (b0 b1 b2 b3 : Byte) : Word :=
  b0.setWidth 32 ||| (b1.setWidth 32 <<< 8) ||| (b2.setWidth 32 <<< 16) ||| (b3.setWidth 32 <<< 24)

end Sys2Proof.Machine
end

