-- ==== Sys2Proof/Machine/State.lean ====
section
/-! DEFINITION. The state of the CKF block (10_state.md R22), the host's events that drive it, the reasons a step could
stop, and reset (70_reset_and_hazards.md R240, R241). -/

namespace Sys2Proof.Machine

/-- What the host can do to the block between commands (10_state.md R37): issue a command, the pair `(CW, DIN)` of
30_encoding.md R70, or assert `RST` (R240). -/
inductive HostEvent where
  | command (cw : Word) (din : List Byte)
  | rst
deriving DecidableEq, Repr

/-- The whole state of the block. `lrc` to `rxbuf` are the tuple of R22. `params` holds the instance's parameters,
which no command and no reset changes (R40; notes/assumptions/1.md), and `input` the events the host has issued and
the block has not taken yet, oldest first (R60, R61; notes/assumptions/2.md): these two are the model's own fields. -/
structure State where
  /-- The instance's parameters (R6 to R14, R40). -/
  params : Params
  /-- `LRC`, the running XOR accumulator (R23). -/
  lrc : Byte
  /-- `CRC`, the raw shift register, before any final XOR (R24). -/
  crc : Half
  /-- `STATUS.ERR` = STATUS[3:0] (R27). -/
  err : BitVec 4
  /-- `STATUS.OK` = STATUS[4] (R28). -/
  ok : Bool
  /-- `STATUS.PASS` = STATUS[5] (R29). -/
  pass : Bool
  /-- `FRM`, the header fields of the last decoded frame (R34). -/
  frm : Word
  /-- `OUT`, the output byte sequence (R35). -/
  out : List Byte
  /-- `RXBUF`, the reassembly buffer (R36). -/
  rxbuf : List Byte
  /-- The model's own field: what the host has issued and the block has not taken yet. -/
  input : List HostEvent
deriving DecidableEq, Repr

/-- The block has no fault: every anomaly is a status outcome of its command, nothing traps, and there is no lock-up,
halt or double-fault state (60_exceptions.md R210, R222, R223). No constructor, so nothing can raise one (safe). -/
inductive Fault
deriving DecidableEq, Repr

/-- Why the model could give an instruction no meaning. -/
inductive Refusal where
  /-- Raised by an arm of `exec` for an instruction without a meaning, and by nothing else. Every instruction has its
  meaning, so no step raises it (safe). -/
  | notModelled (mnemonic : String)
deriving DecidableEq, Repr

/-- The reset state of an instance with parameters `p`, nothing issued yet (R240, R241, R244). -/
def State.resetWith (p : Params) : State where
  params := p
  lrc := 0x00#8
  crc := crcInitValue
  err := 0#4
  ok := false
  pass := false
  frm := 0x00000000#32
  out := []
  rxbuf := []
  input := []

/-- The block right after reset, with the default parameters (R240, R241). -/
def State.reset : State := State.resetWith Params.default

end Sys2Proof.Machine
end

