-- ==== Sys2Proof/Machine/Flags.lean ====
section
/-! DEFINITION. The values the block derives from its state: the error codes (60_exceptions.md R211), the completeness
function `fic` (41_frame_codec.md R160), the `STATUS` word (10_state.md R26 to R32) and `CRCOUT` (R25). -/

namespace Sys2Proof.Machine

/-- The numeric code of an error, as `STATUS.ERR` holds it (R211). -/
def errCode : ErrCode → BitVec 4
  | .none => 0x0#4
  | .checksumMismatch => 0x1#4
  | .lengthMismatch => 0x2#4
  | .etxMismatch => 0x3#4
  | .payloadTooLong => 0x4#4
  | .tooShort => 0x5#4
  | .rxOverflow => 0x6#4
  | .illegalOp => 0x7#4
  | .operandTooLong => 0x8#4

/-- The answer of `fic`: whether the buffer is complete, and the tier that decided, 0 where it is not (R31, R160). -/
structure Completeness where
  complete : Bool
  tier : BitVec 2
deriving DecidableEq, Repr

/-- `(0, 0)`: not complete. -/
def notComplete : Completeness := ⟨false, 0#2⟩

/-- `fic(B)`, DOC0's `frame_is_complete`: the three tiers in order, on the length and the first byte alone (R160). -/
def fic (bytes : List Byte) : Completeness :=
  match bytes with
  | [] => notComplete
  | b :: rest =>
    let n := rest.length + 1
    match fixedTotal b with
    | some total => if n ≥ total then ⟨true, 1#2⟩ else notComplete
    | none =>
      if n = 1 ∧ b = ackByte then ⟨true, 2#2⟩
      else if n ≥ b.toNat + genericOverhead then ⟨true, 3#2⟩
      else notComplete

/-- `STATUS.COMPLETE` (R30). -/
def State.complete (s : State) : Bool := (fic s.rxbuf).complete

/-- `STATUS.TIER` (R31). -/
def State.tier (s : State) : BitVec 2 := (fic s.rxbuf).tier

/-- The `STATUS` register as the host reads it: reserved[15:9], TIER[8:7], COMPLETE[6], PASS[5], OK[4], ERR[3:0]
(R26, R32). -/
def State.statusWord (s : State) : Half :=
  0#7 ++ s.tier ++ BitVec.ofBool s.complete ++ BitVec.ofBool s.pass ++ BitVec.ofBool s.ok ++ s.err

/-- `CRCOUT` = `fin(CRC)` (R25). -/
def State.crcout (s : State) : Half := crcFin s.params.crcMode s.crc

end Sys2Proof.Machine
end

