-- ==== Sys2Proof/Machine/Frames.lean ====
section
/-! DEFINITION. The two frame formats (30_encoding.md R80 to R86): building a frame, and parsing one in the order of
checks that 41_frame_codec.md R151 and R157 give. -/

namespace Sys2Proof.Machine

/-- The bytes of an LRC frame before its LRC byte: STX, the 16-bit LEN big-endian, payload, ETX (R80, R150). -/
def lrcFrameBody (p : Params) (payload : List Byte) : List Byte :=
  [p.stxByte, hi8 (BitVec.ofNat 16 payload.length), lo8 (BitVec.ofNat 16 payload.length)] ++ payload ++ [p.etxByte]

/-- An LRC frame: its body and the LRC of the body (R80, R81, R150). -/
def lrcFrame (p : Params) (payload : List Byte) : List Byte :=
  lrcFrameBody p payload ++ [lrcOf (lrcFrameBody p payload)]

/-- The bytes of a CRC frame before its CRC16 field: CMD, LEN, CLASS, IDENT, payload (R83, R84, R156). -/
def crcFrameBody (p : Params) (cmd cls ident : Byte) (payload : List Byte) : List Byte :=
  [cmd, BitVec.ofNat 8 (payload.length + p.lenBias.val), cls, ident] ++ payload

/-- `CRC_MAX_PAYLOAD`: the largest payload the one-byte LEN of a CRC frame can declare (R12, R84). -/
def crcMaxPayload (p : Params) : Nat := 255 - p.lenBias.val

/-- A CRC frame: its body and the CRC16 of the body, low byte first (R83, R85, R156). -/
def crcFrame (p : Params) (cmd cls ident : Byte) (payload : List Byte) : List Byte :=
  crcFrameBody p cmd cls ident payload ++ lowFirst (crc16 p.crcMode (crcFrameBody p cmd cls ident payload))

/-- What a decode command finds in its input: not a frame at all (pass-through, R153), a bad frame with the first
error found (R218), or a frame with its payload and the header fields that `FRM` takes (R34). -/
inductive Parsed where
  | notFramed
  | bad (e : ErrCode)
  | frame (payload : List Byte) (fields : Word)
deriving DecidableEq, Repr

/-- Parses an LRC frame: pass-through test, length, ETX, LRC, in this order (R151, R218). -/
def parseLrcFrame (p : Params) (din : List Byte) : Parsed :=
  if din.length < 5 ∨ byteAt din 0 ≠ p.stxByte then .notFramed
  else
    let len := bigEndianLen (byteAt din 1) (byteAt din 2)
    if din.length ≠ len + 5 then .bad .lengthMismatch
    else if byteAt din (len + 3) ≠ p.etxByte then .bad .etxMismatch
    else if lrcOf (slice din 0 (len + 4)) ≠ byteAt din (len + 4) then .bad .checksumMismatch
    else .frame (slice din 3 (len + 3)) (BitVec.ofNat 32 len)

/-- Parses a CRC frame: too short, length, CRC, in this order (R157, R218). -/
def parseCrcFrame (p : Params) (din : List Byte) : Parsed :=
  let n := din.length
  if n < 6 then .bad .tooShort
  else
    let len := (byteAt din 1).toNat
    if len < p.lenBias.val ∨ n ≠ len - p.lenBias.val + 6 then .bad .lengthMismatch
    else if crc16 p.crcMode (slice din 0 (n - 2)) ≠ littleEndian (byteAt din (n - 2)) (byteAt din (n - 1)) then
      .bad .checksumMismatch
    else .frame (slice din 4 (n - 2)) (packBytes (byteAt din 0) (byteAt din 1) (byteAt din 2) (byteAt din 3))

end Sys2Proof.Machine
end

