-- ==== Sys2Proof/Machine/Ops.lean ====
section
/-! DEFINITION. The named operations over the state that the meanings share: register writes, the outcomes of a command
(60_exceptions.md R214 to R217), the end of a decode command, reset, the host's reads, and taking the next event. -/

namespace Sys2Proof.Machine

/-- `LRC <- v` (R18, R23). -/
def State.setLrc (s : State) (v : Byte) : State := { s with lrc := v }

/-- `CRC <- v` (R18, R24). -/
def State.setCrc (s : State) (v : Half) : State := { s with crc := v }

/-- `FRM <- v` (R18, R34). -/
def State.setFrm (s : State) (v : Word) : State := { s with frm := v }

/-- `OUT <- B` (R18, R35). -/
def State.setOut (s : State) (bytes : List Byte) : State := { s with out := bytes }

/-- `RXBUF <- B` (R18, R36). -/
def State.setRxbuf (s : State) (bytes : List Byte) : State := { s with rxbuf := bytes }

/-- Writes the three stored fields of `STATUS`; every command does so, once (R27, R28, R29). -/
def State.setStatus (s : State) (e : ErrCode) (ok pass : Bool) : State :=
  { s with err := errCode e, ok := ok, pass := pass }

/-- The success outcome, `succeed` (R214). -/
def State.succeed (s : State) : State := s.setStatus .none true false

/-- The pass-through outcome, `pass`, of LRC_DEC (R215). -/
def State.passThrough (s : State) : State := s.setStatus .none false true

/-- The failure outcome, `raise Error(code)`: the block's whole response to an error, in place of taking an exception.
The writes made before it stand, nothing is saved, and control goes nowhere but to the next command (R216, R222). -/
def State.raiseError (s : State) (e : ErrCode) : State := s.setStatus e false false

/-- An early error of the decode procedure: `STATUS` only (R217). -/
def State.earlyError (s : State) (e : ErrCode) : State := s.setStatus e false false

/-- The end of a decode command on input `din`: `OUT` and `FRM` are written on every outcome, with the raw input and 0
where no frame was found (R34, R151, R157, R213). -/
def State.finishDecode (s : State) (din : List Byte) (r : Parsed) : State :=
  match r with
  | .notFramed => ((s.setOut din).setFrm 0x00000000#32).passThrough
  | .bad e => ((s.setOut din).setFrm 0x00000000#32).raiseError e
  | .frame payload fields => ((s.setOut payload).setFrm fields).succeed

/-- `RST`: every state element takes its reset value; the parameters stay (R240), and so does what the host issued
after it (R60; notes/assumptions/3.md). -/
def State.applyReset (s : State) : State := { State.resetWith s.params with input := s.input }

/-- The oldest event the host has issued and the block has not taken, and the state once it is taken; none when the
block is idle (R60, R61, R229). -/
def State.takeEvent (s : State) : Option (HostEvent × State) :=
  match s.input with
  | [] => none
  | ev :: rest => some (ev, { s with input := rest })

/-- The host issues one more event, after all it issued before (R60). -/
def State.issue (s : State) (ev : HostEvent) : State := { s with input := s.input ++ [ev] }

/-- The command's bits placed where the next step takes its event: ahead of everything else. -/
def State.placeNext (s : State) (cw : Word) (din : List Byte) : State :=
  { s with input := .command cw din :: s.input }

/-- What the host can read between commands (R37). -/
inductive HostReg where
  | lrc
  | crc
  | crcout
  | status
  | frm
  | out
  | rxbuf
deriving DecidableEq, Repr

/-- A value the host reads, whole, at its register's width (R57). -/
inductive HostValue where
  | byte (v : Byte)
  | half (v : Half)
  | word (v : Word)
  | bytes (v : List Byte)
deriving DecidableEq, Repr

/-- A host read: a function of the state that changes nothing (R37, R57, R58; notes/assumptions/12.md). -/
def hostRead (r : HostReg) (s : State) : HostValue :=
  match r with
  | .lrc => .byte s.lrc
  | .crc => .half s.crc
  | .crcout => .half s.crcout
  | .status => .half s.statusWord
  | .frm => .word s.frm
  | .out => .bytes s.out
  | .rxbuf => .bytes s.rxbuf

end Sys2Proof.Machine
end

