-- ==== Sys2Proof/Machine/Crc.lean ====
section
/-! DEFINITION. The commands of the CRC unit (40_checksum.md R111 to R114). -/

namespace Sys2Proof.Machine

/-- CRC_INIT (R111). -/
def execCrcInit (s : State) : Host.Outcome State Fault Refusal := .next (s.setCrc crcInitValue).succeed

/-- CRC_FEED: the final XOR of mode `X25` is never applied to `CRC` itself (R112). -/
def execCrcFeed (din : List Byte) (s : State) : Host.Outcome State Fault Refusal :=
  .next (s.setCrc (crcFold s.params.crcMode s.crc din)).succeed

/-- CRC_CALC (R113). -/
def execCrcCalc (din : List Byte) (s : State) : Host.Outcome State Fault Refusal :=
  let r := crcFold s.params.crcMode crcInitValue din
  .next ((s.setCrc r).setOut (lowFirst (crcFin s.params.crcMode r))).succeed

/-- CRC_CHECK: the stored value is compared directly, never by a residue (R114, R116). -/
def execCrcCheck (din : List Byte) (s : State) : Host.Outcome State Fault Refusal :=
  let n := din.length
  if n < 2 then .next (s.raiseError .tooShort)
  else if crc16 s.params.crcMode (slice din 0 (n - 2)) = littleEndian (byteAt din (n - 2)) (byteAt din (n - 1)) then
    .next s.succeed
  else .next (s.raiseError .checksumMismatch)

end Sys2Proof.Machine
end

