-- ==== Sys2Proof/Machine/FrameCodec.lean ====
section
/-! DEFINITION. The commands of the frame unit that build and parse frames (41_frame_codec.md R150 to R157). -/

namespace Sys2Proof.Machine

/-- LRC_ENC (R150). -/
def execLrcEnc (din : List Byte) (s : State) : Host.Outcome State Fault Refusal :=
  if din.length > lrcMaxPayload then .next (s.raiseError .payloadTooLong)
  else .next (s.setOut (lrcFrame s.params din)).succeed

/-- LRC_DEC (R151, R152, R153). -/
def execLrcDec (din : List Byte) (s : State) : Host.Outcome State Fault Refusal :=
  .next (s.finishDecode din (parseLrcFrame s.params din))

/-- CRC_ENC (R156). -/
def execCrcEnc (cmd cls ident : Byte) (din : List Byte) (s : State) : Host.Outcome State Fault Refusal :=
  if din.length + s.params.lenBias.val > 255 then .next (s.raiseError .payloadTooLong)
  else .next (s.setOut (crcFrame s.params cmd cls ident din)).succeed

/-- CRC_DEC (R157). -/
def execCrcDec (din : List Byte) (s : State) : Host.Outcome State Fault Refusal :=
  .next (s.finishDecode din (parseCrcFrame s.params din))

end Sys2Proof.Machine
end

