-- ==== Sys2Proof/Machine/Lrc.lean ====
section
/-! DEFINITION. The commands of the LRC unit (40_checksum.md R100 to R103). -/

namespace Sys2Proof.Machine

/-- LRC_INIT (R100). -/
def execLrcInit (s : State) : Host.Outcome State Fault Refusal := .next (s.setLrc 0x00#8).succeed

/-- LRC_FEED (R101). -/
def execLrcFeed (din : List Byte) (s : State) : Host.Outcome State Fault Refusal :=
  .next (s.setLrc (lrcFold s.lrc din)).succeed

/-- LRC_CALC (R102). -/
def execLrcCalc (din : List Byte) (s : State) : Host.Outcome State Fault Refusal :=
  let v := lrcOf din
  .next ((s.setLrc v).setOut [v]).succeed

/-- LRC_CHECK (R103). -/
def execLrcCheck (din : List Byte) (s : State) : Host.Outcome State Fault Refusal :=
  let n := din.length
  if n < 1 then .next (s.raiseError .tooShort)
  else if lrcOf (slice din 0 (n - 1)) = byteAt din (n - 1) then .next s.succeed
  else .next (s.raiseError .checksumMismatch)

end Sys2Proof.Machine
end

