-- ==== Sys2Proof/Machine/Reassembly.lean ====
section
/-! DEFINITION. The commands of the reassembly buffer (41_frame_codec.md R161, R162). -/

namespace Sys2Proof.Machine

/-- RX_CLEAR (R161). -/
def execRxClear (s : State) : Host.Outcome State Fault Refusal := .next (s.setRxbuf []).succeed

/-- RX_APPEND: all or nothing (R162). -/
def execRxAppend (din : List Byte) (s : State) : Host.Outcome State Fault Refusal :=
  if s.rxbuf.length + din.length > s.params.rxbufCap then .next (s.raiseError .rxOverflow)
  else .next (s.setRxbuf (s.rxbuf ++ din)).succeed

end Sys2Proof.Machine
end

