-- ==== Sys2Proof/Machine/System.lean ====
section
/-! DEFINITION. The system command: NOP (42_system.md R200). -/

namespace Sys2Proof.Machine

/-- NOP: the success outcome and nothing else (R200). -/
def execNop (s : State) : Host.Outcome State Fault Refusal := .next s.succeed

end Sys2Proof.Machine
end

