-- ==== Sys2Proof/Machine/Dispatch.lean ====
section
/-! DEFINITION. exec: the meaning of each command, one arm per constructor of `Instr` (30_encoding.md R76). -/

namespace Sys2Proof.Machine

def exec (i : Instr) (s : State) : Host.Outcome State Fault Refusal :=
  match i with
  | .nop => Sys2Proof.Machine.execNop s
  | .lrcInit => Sys2Proof.Machine.execLrcInit s
  | .lrcFeed din => Sys2Proof.Machine.execLrcFeed din s
  | .lrcCalc din => Sys2Proof.Machine.execLrcCalc din s
  | .lrcCheck din => Sys2Proof.Machine.execLrcCheck din s
  | .crcInit => Sys2Proof.Machine.execCrcInit s
  | .crcFeed din => Sys2Proof.Machine.execCrcFeed din s
  | .crcCalc din => Sys2Proof.Machine.execCrcCalc din s
  | .crcCheck din => Sys2Proof.Machine.execCrcCheck din s
  | .lrcEnc din => Sys2Proof.Machine.execLrcEnc din s
  | .lrcDec din => Sys2Proof.Machine.execLrcDec din s
  | .crcEnc cmd cls ident din => Sys2Proof.Machine.execCrcEnc cmd cls ident din s
  | .crcDec din => Sys2Proof.Machine.execCrcDec din s
  | .rxClear => Sys2Proof.Machine.execRxClear s
  | .rxAppend din => Sys2Proof.Machine.execRxAppend din s

end Sys2Proof.Machine
end

