-- ==== Sys2Proof/Machine/Issue.lean ====
section
/-! DEFINITION. One command, one event, and a list of commands: what a step does with the event it takes
(30_encoding.md R70, R77; 70_reset_and_hazards.md R240). -/

namespace Sys2Proof.Machine

/-- One command `(CW, DIN)`: the decode procedure, then the rule of the decoded command; a decode error is an early
error (R77, R217). -/
def runCommand (cw : Word) (din : List Byte) (s : State) : Host.Outcome State Fault Refusal :=
  match decode s.params cw din with
  | .ok i => exec i s
  | .error e => .next (s.earlyError e)

/-- One event of the host: a command, or `RST` between commands (R55, R240). -/
def handleEvent (ev : HostEvent) (s : State) : Host.Outcome State Fault Refusal :=
  match ev with
  | .command cw din => runCommand cw din s
  | .rst => .next s.applyReset

/-- Commands one after the other, as the host issues them; an error of one does not stop the next (R60, R92, R223). -/
def execAll : List Instr → State → Host.Outcome State Fault Refusal
  | [], s => .next s
  | i :: rest, s =>
    match exec i s with
    | .next t => execAll rest t
    | .fault r => .fault r
    | .refused r => .refused r

end Sys2Proof.Machine
end

