-- ==== Sys2Proof/Machine/Step.lean ====
section
/-! DEFINITION. One step of the machine: the block takes the oldest event the host has issued and executes it as one
atomic step; with nothing issued it is idle and holds its state (20_memory.md R55, R60; 60_exceptions.md R229). -/

namespace Sys2Proof.Machine

/-- One step. -/
def step (s : State) : Host.Outcome State Fault Refusal :=
  match s.takeEvent with
  | none => .next s
  | some (ev, t) => handleEvent ev t

/-- `s` with the instruction whose bits are `w` issued as its next command: it stands for the host delivering
`(CW, DIN)` (R70; notes/assumptions/2.md and 11.md). -/
def State.withFetchWord (s : State) (nbits w : Nat) : State :=
  s.placeNext (tableCw nbits w) (tableDin nbits w)

end Sys2Proof.Machine
end

