-- ==== Sys2Proof/Machine/HostRules.lean ====
section
/-! DEFINITION. What the spec asks of, or gives to, the host beside the commands: the pseudo-instructions (30_encoding.md
R92) and the completeness rule for LRC frames that a host applies itself (70_reset_and_hazards.md R256). -/

namespace Sys2Proof.Machine

/-- The four pseudo-instructions (R92). -/
inductive Pseudo where
  | lrcRestart (bytes : List Byte)
  | crcRestart (bytes : List Byte)
  | rxFlush
  | rxLoad (bytes : List Byte)
deriving DecidableEq, Repr

/-- The commands a pseudo-instruction expands to, in order (R92). -/
def expandPseudo : Pseudo → List Instr
  | .lrcRestart bytes => [.lrcInit, .lrcFeed bytes]
  | .crcRestart bytes => [.crcInit, .crcFeed bytes]
  | .rxFlush => [.rxClear]
  | .rxLoad bytes => [.rxClear, .rxAppend bytes]

/-- The host's rule for an LRC frame at the front of a buffer `B` that starts with `STX_BYTE`: none while the frame is
not whole, and once `|B| ≥ 3` and `|B| ≥ B[1]·256 + B[2] + 5`, exactly the bytes to pass to LRC_DEC (R256). A buffer
that does not start with `STX_BYTE` holds no LRC frame, so there is none either. -/
def hostLrcFrame (p : Params) (bytes : List Byte) : Option (List Byte) :=
  let total := bigEndianLen (byteAt bytes 1) (byteAt bytes 2) + 5
  if 3 ≤ bytes.length ∧ byteAt bytes 0 = p.stxByte ∧ total ≤ bytes.length then some (slice bytes 0 total)
  else none

end Sys2Proof.Machine
end

