-- ==== Sys2Proof/Machine/Assembler.lean ====
section
/-! DEFINITION. The assembler syntax (30_encoding.md R91): the text of a command, and the commands that a line of text
stands for. Braces are written by their codes. What R91 leaves open is fixed in notes/assumptions/9.md. -/

namespace Sys2Proof.Machine

/-- The opening brace, U+007B. -/
def openBrace : Char := Char.ofNat 0x7B

/-- The closing brace, U+007D. -/
def closeBrace : Char := Char.ofNat 0x7D

/-- The mnemonics of the opcode map, character by character (R76, R91). -/
def mnemonic : Op → List Char
  | .nop => ['N', 'O', 'P']
  | .lrcInit => ['L', 'R', 'C', '_', 'I', 'N', 'I', 'T']
  | .lrcFeed => ['L', 'R', 'C', '_', 'F', 'E', 'E', 'D']
  | .lrcCalc => ['L', 'R', 'C', '_', 'C', 'A', 'L', 'C']
  | .lrcCheck => ['L', 'R', 'C', '_', 'C', 'H', 'E', 'C', 'K']
  | .crcInit => ['C', 'R', 'C', '_', 'I', 'N', 'I', 'T']
  | .crcFeed => ['C', 'R', 'C', '_', 'F', 'E', 'E', 'D']
  | .crcCalc => ['C', 'R', 'C', '_', 'C', 'A', 'L', 'C']
  | .crcCheck => ['C', 'R', 'C', '_', 'C', 'H', 'E', 'C', 'K']
  | .lrcEnc => ['L', 'R', 'C', '_', 'E', 'N', 'C']
  | .lrcDec => ['L', 'R', 'C', '_', 'D', 'E', 'C']
  | .crcEnc => ['C', 'R', 'C', '_', 'E', 'N', 'C']
  | .crcDec => ['C', 'R', 'C', '_', 'D', 'E', 'C']
  | .rxClear => ['R', 'X', '_', 'C', 'L', 'E', 'A', 'R']
  | .rxAppend => ['R', 'X', '_', 'A', 'P', 'P', 'E', 'N', 'D']

/-- The operations in the order of the opcode map (R76). -/
def allOps : List Op :=
  [.nop, .lrcInit, .lrcFeed, .lrcCalc, .lrcCheck, .crcInit, .crcFeed, .crcCalc, .crcCheck, .lrcEnc, .lrcDec, .crcEnc,
    .crcDec, .rxClear, .rxAppend]

/-- The operation that a mnemonic names. -/
def opOfMnemonic (word : List Char) : Option Op := allOps.find? fun o => decide (mnemonic o = word)

/-- The upper-case hexadecimal digit of a value below 16. -/
def hexChar (n : Nat) : Char := if n < 10 then Char.ofNat (48 + n) else Char.ofNat (55 + n)

/-- A byte as two hexadecimal digits. -/
def hexByte (b : Byte) : List Char := [hexChar (b.toNat / 16), hexChar (b.toNat % 16)]

/-- The value of a hexadecimal digit, of either case. -/
def hexValue (c : Char) : Option Nat :=
  let n := c.toNat
  if 48 ≤ n ∧ n ≤ 57 then some (n - 48)
  else if 65 ≤ n ∧ n ≤ 70 then some (n - 55)
  else if 97 ≤ n ∧ n ≤ 102 then some (n - 87)
  else none

/-- A byte written as exactly two hexadecimal digits. -/
def readHexByte (word : List Char) : Option Byte :=
  match word with
  | [a, b] =>
    match hexValue a, hexValue b with
    | some hi, some lo => some (BitVec.ofNat 8 (16 * hi + lo))
    | _, _ => none
  | _ => none

/-- A byte written as `0x` and exactly two hexadecimal digits, as CMD, CLASS and IDENT are. -/
def readHexLiteral (word : List Char) : Option Byte :=
  match word with
  | '0' :: 'x' :: digits => readHexByte digits
  | _ => none

/-- The tokens of a line. -/
inductive Token where
  | word (text : List Char)
  | openB
  | closeB
  | comma
deriving DecidableEq, Repr

/-- A word read so far becomes a token, unless it is empty. -/
def flushWord (acc : List Char) (rest : List Token) : List Token :=
  if acc = [] then rest else .word acc :: rest

/-- Cuts a line into tokens; `acc` is the word being read. A semicolon starts a comment to the end of the line. -/
def tokens (acc : List Char) : List Char → List Token
  | [] => flushWord acc []
  | c :: rest =>
    if c = ';' then flushWord acc []
    else if c = ' ' ∨ c = '\t' then flushWord acc (tokens [] rest)
    else if c = openBrace then flushWord acc (.openB :: tokens [] rest)
    else if c = closeBrace then flushWord acc (.closeB :: tokens [] rest)
    else if c = ',' then flushWord acc (.comma :: tokens [] rest)
    else tokens (acc ++ [c]) rest

/-- The bytes of a braced list, after its opening brace, up to a closing brace that ends the line. -/
def readBytes : List Token → Option (List Byte)
  | [.closeB] => some []
  | .word w :: rest =>
    match readHexByte w, readBytes rest with
    | some b, some bytes => some (b :: bytes)
    | _, _ => none
  | _ => none

/-- The name LRC_RESTART (R92). -/
def lrcRestartName : List Char := ['L', 'R', 'C', '_', 'R', 'E', 'S', 'T', 'A', 'R', 'T']

/-- The name CRC_RESTART (R92). -/
def crcRestartName : List Char := ['C', 'R', 'C', '_', 'R', 'E', 'S', 'T', 'A', 'R', 'T']

/-- The name RX_FLUSH (R92). -/
def rxFlushName : List Char := ['R', 'X', '_', 'F', 'L', 'U', 'S', 'H']

/-- The name RX_LOAD (R92). -/
def rxLoadName : List Char := ['R', 'X', '_', 'L', 'O', 'A', 'D']

/-- The pseudo-instruction that a line of the form `NAME` or `NAME` with a braced list names (R92). -/
def readPseudo (word : List Char) (operand : Option (List Byte)) : Option Pseudo :=
  match operand with
  | none => if word = rxFlushName then some .rxFlush else none
  | some bytes =>
    if word = lrcRestartName then some (.lrcRestart bytes)
    else if word = crcRestartName then some (.crcRestart bytes)
    else if word = rxLoadName then some (.rxLoad bytes)
    else none

/-- A line with a mnemonic and no operand: format N, or RX_FLUSH. -/
def readPlain (word : List Char) : Option (List Instr) :=
  match opOfMnemonic word with
  | some o => if o.format = .n then some [o.instr 0#32 []] else none
  | none => (readPseudo word none).map expandPseudo

/-- A line with a mnemonic and a braced list: format D, or a pseudo-instruction with bytes. -/
def readBraced (word : List Char) (bytes : List Byte) : Option (List Instr) :=
  match opOfMnemonic word with
  | some o => if o.format = .d then some [o.instr 0#32 bytes] else none
  | none => (readPseudo word (some bytes)).map expandPseudo

/-- A line of format E, from its three byte literals and its braced list. -/
def readHeaded (word k c i : List Char) (bytes : List Byte) : Option (List Instr) :=
  if opOfMnemonic word = some .crcEnc then
    match readHexLiteral k, readHexLiteral c, readHexLiteral i with
    | some cmd, some cls, some ident => some [.crcEnc cmd cls ident bytes]
    | _, _, _ => none
  else none

/-- The commands that a line's tokens stand for; none where the line is not of the syntax. -/
def parseLine : List Token → Option (List Instr)
  | [] => some []
  | [.word w] => readPlain w
  | .word w :: .openB :: rest => (readBytes rest).bind (readBraced w)
  | .word w :: .word k :: .comma :: .word c :: .comma :: .word i :: .comma :: .openB :: rest =>
    (readBytes rest).bind (readHeaded w k c i)
  | _ => none

/-- Assembles one line: the `CW` and `DIN` of each command it stands for, in order (R91, R92). -/
def assembleLine (line : List Char) : Option (List (Word × List Byte)) :=
  (parseLine (tokens [] line)).map fun is => is.map encode

/-- The bytes of a list, two hexadecimal digits each, with one space between two bytes. -/
def spacedBytes : List Byte → List Char
  | [] => []
  | [b] => hexByte b
  | b :: c :: rest => hexByte b ++ ' ' :: spacedBytes (c :: rest)

/-- A braced list of bytes (R91). -/
def bytesText (bytes : List Byte) : List Char := openBrace :: spacedBytes bytes ++ [closeBrace]

/-- The text of a format N command: its mnemonic alone (R91). -/
def plainText (o : Op) : List Char := mnemonic o

/-- The text of a format D command: its mnemonic and its operand (R91). -/
def bracedText (o : Op) (din : List Byte) : List Char := mnemonic o ++ ' ' :: bytesText din

/-- A byte as a `0x` literal (R91). -/
def hexLiteral (b : Byte) : List Char := '0' :: 'x' :: hexByte b

/-- The text of a command in the syntax of R91. -/
def asmText : Instr → List Char
  | .nop => plainText .nop
  | .lrcInit => plainText .lrcInit
  | .lrcFeed din => bracedText .lrcFeed din
  | .lrcCalc din => bracedText .lrcCalc din
  | .lrcCheck din => bracedText .lrcCheck din
  | .crcInit => plainText .crcInit
  | .crcFeed din => bracedText .crcFeed din
  | .crcCalc din => bracedText .crcCalc din
  | .crcCheck din => bracedText .crcCheck din
  | .lrcEnc din => bracedText .lrcEnc din
  | .lrcDec din => bracedText .lrcDec din
  | .crcEnc cmd cls ident din =>
    mnemonic .crcEnc ++ ' ' :: hexLiteral cmd ++ ',' :: ' ' :: hexLiteral cls ++ ',' :: ' ' ::
      hexLiteral ident ++ ',' :: ' ' :: bytesText din
  | .crcDec din => bracedText .crcDec din
  | .rxClear => plainText .rxClear
  | .rxAppend din => bracedText .rxAppend din

/-- The text of a pseudo-instruction (R92). -/
def pseudoText : Pseudo → List Char
  | .lrcRestart bytes => lrcRestartName ++ ' ' :: bytesText bytes
  | .crcRestart bytes => crcRestartName ++ ' ' :: bytesText bytes
  | .rxFlush => rxFlushName
  | .rxLoad bytes => rxLoadName ++ ' ' :: bytesText bytes

end Sys2Proof.Machine
end

