-- ==== Sys2Proof/Safety.lean ====
section
/-! DEFINITION. What counts as a safe run: the invariant of the state that the rules of 10_state.md give, and that no
step stops the machine (60_exceptions.md R210, R223). -/

namespace Sys2Proof.Machine

/-- The bound on `|OUT|`: max(`DIN_MAX`, 65540) (R35). -/
def outBound (p : Params) : Nat := max p.dinMax 65540

/-- What every state of a run satisfies: parameters within their constraints (R13, R14), `ERR` never a reserved code
(R27), at most one of success, pass-through and failure recorded (R33), and the two buffers within their bounds (R35,
R36). -/
structure Inv (s : State) : Prop where
  paramsWf : s.params.wf = true
  errAssigned : s.err.toNat ≤ 8
  okAlone : s.ok = true → s.pass = false ∧ s.err = 0#4
  passAlone : s.pass = true → s.err = 0#4
  outBounded : s.out.length ≤ outBound s.params
  rxbufBounded : s.rxbuf.length ≤ s.params.rxbufCap

/-- Exactly one of the three outcomes that a completed command leaves in `STATUS` (R33). -/
def OneOutcome (s : State) : Prop :=
  (s.ok = true ∧ s.pass = false ∧ s.err = 0#4) ∨ (s.ok = false ∧ s.pass = true ∧ s.err = 0#4) ∨
    (s.ok = false ∧ s.pass = false ∧ s.err ≠ 0#4)

/-- A run from `s` is safe when every number of steps answers a next state that keeps the invariant: no fault and no
refusal is ever met. -/
def SafeRun (s : State) : Prop :=
  ∀ k : Nat, ∃ t, Sys2Proof.core.run k s = .next t ∧ Inv t

end Sys2Proof.Machine
end

