-- ==== Sys2Proof/Certificates/Slice0/Obligations.lean ====
section
/-! DEFINITION. The statements about the CKF block. Each docstring names the rule of spec/ it formalises. Where a title
says "the model's choice", the clause rests on a log entry, not on a rule. -/

open Sys2Proof Sys2Proof.Machine

/-! ### Encoding -/

/-- R71 to R77: decoding the encoding of a well-formed command gives that command back, for every operand. -/
def Obligations.DecodeOfEncodeIsTheCommand : Prop :=
  ∀ (p : Params) (i : Instr), i.wellFormed p = true → decode p (encode i).1 (encode i).2 = .ok i

/-- R71 to R77: a command word and operand that decode have one meaning only: they are the encoding of what they
decode to, which is well formed. No bit of `CW` is ignored. -/
def Obligations.DecodedWordIsItsEncoding : Prop :=
  ∀ (p : Params) (cw : Word) (din : List Byte) (i : Instr),
    decode p cw din = .ok i → encode i = (cw, din) ∧ i.wellFormed p = true

/-- R77: the decode procedure, its checks in their order, on numbers: which `(CW, DIN)` fails with which code. The
unassigned opcodes are R78's four ranges. -/
def Obligations.DecodeErrorsInListedOrder : Prop :=
  ∀ (p : Params) (cw : Word) (din : List Byte),
    let op := cw.toNat % 256
    let unassigned := (5 ≤ op ∧ op ≤ 7) ∨ (0x0C ≤ op ∧ op ≤ 0x0F) ∨ (0x14 ≤ op ∧ op ≤ 0x17) ∨ 0x1A ≤ op
    let badReserved := op ≠ 0x12 ∧ cw.toNat / 256 ≠ 0
    let badOperand := (op = 0x00 ∨ op = 0x01 ∨ op = 0x08 ∨ op = 0x18) ∧ din ≠ []
    let illegal := unassigned ∨ badReserved ∨ badOperand
    (illegal → decode p cw din = .error .illegalOp) ∧
      (¬ illegal → p.dinMax < din.length → decode p cw din = .error .operandTooLong) ∧
      (¬ illegal → din.length ≤ p.dinMax → ∃ i, decode p cw din = .ok i ∧ (encode i).1 = cw)

/-- R76: a few words written out from the opcode map decode to the commands they stand for. -/
def Obligations.SampleWordsDecode : Prop :=
  decode Params.default 0x00000000#32 [] = .ok .nop ∧
    decode Params.default 0x00000003#32 [0x01#8, 0x02#8] = .ok (.lrcCalc [0x01#8, 0x02#8]) ∧
    decode Params.default 0x0000000B#32 [0x00#8, 0x00#8] = .ok (.crcCheck [0x00#8, 0x00#8]) ∧
    decode Params.default 0x03018012#32 [0xAA#8] = .ok (.crcEnc 0x80#8 0x01#8 0x03#8 [0xAA#8]) ∧
    decode Params.default 0x00000018#32 [] = .ok .rxClear ∧
    decode Params.default 0x00000105#32 [] = .error .illegalOp

/-- R78: every unassigned `OP`, whatever the other fields and the operand, fails with `ILLEGAL_OP` and changes nothing
but `STATUS`; there are 241 such values. -/
def Obligations.UnassignedOpcodeWritesStatusOnly : Prop :=
  (∀ (s : State) (cw : Word) (din : List Byte),
      cw.toNat % 256 ∉ [0x00, 0x01, 0x02, 0x03, 0x04, 0x08, 0x09, 0x0A, 0x0B, 0x10, 0x11, 0x12, 0x13, 0x18, 0x19] →
      runCommand cw din s = .next { s with err := 0x7#4, ok := false, pass := false }) ∧
    ((List.range 256).filter fun op => (opOfCode (BitVec.ofNat 8 op)).isNone).length = 241

/-- R91: assembling the text of a command, format N, D or E, gives its `CW` and `DIN`, for every operand. The text has
single spaces and upper-case digits. -/
def Obligations.AssemblingTextGivesTheEncoding : Prop :=
  ∀ i : Instr, assembleLine (asmText i) = some [encode i]

/-- R92: assembling a pseudo-instruction gives its expansion, and what each expansion leaves, for every operand. -/
def Obligations.PseudoInstructionEffects : Prop :=
  (∀ q : Pseudo, assembleLine (pseudoText q) = some ((expandPseudo q).map encode)) ∧
    ∀ (s : State) (bytes : List Byte),
      execAll (expandPseudo (.lrcRestart bytes)) s =
          .next { s with lrc := lrcOf bytes, err := 0#4, ok := true, pass := false } ∧
        execAll (expandPseudo (.crcRestart bytes)) s =
          .next { s with crc := crcFold s.params.crcMode 0xFFFF#16 bytes, err := 0#4, ok := true, pass := false } ∧
        execAll (expandPseudo .rxFlush) s = .next { s with rxbuf := [], err := 0#4, ok := true, pass := false } ∧
        (bytes.length ≤ s.params.rxbufCap → execAll (expandPseudo (.rxLoad bytes)) s =
          .next { s with rxbuf := bytes, err := 0#4, ok := true, pass := false }) ∧
        (s.params.rxbufCap < bytes.length → execAll (expandPseudo (.rxLoad bytes)) s =
          .next { s with rxbuf := [], err := 0x6#4, ok := false, pass := false })

/-! ### The step, reset and the state as a whole -/

/-- R55, R77: when the host's next command decodes to `i`, one step takes that command from the input and is exec of
`i`; when it fails to decode, the step is that of the early error. That the host's commands stand in a list from which a
step takes the oldest is the model's form of R60 (log entry 2). -/
def Obligations.StepRunsTheDecodedCommand : Prop :=
  ∀ (s : State) (cw : Word) (din : List Byte) (rest : List HostEvent), s.input = .command cw din :: rest →
    (∀ i : Instr, decode s.params cw din = .ok i → step s = exec i { s with input := rest }) ∧
      (∀ e : ErrCode, decode s.params cw din = .error e →
        step s = .next { s with input := rest, err := errCode e, ok := false, pass := false })

/-- R217: an early error writes `STATUS.ERR`, `OK` and `PASS`, and nothing else, whatever the command. -/
def Obligations.EarlyErrorsWriteStatusOnly : Prop :=
  ∀ (s : State) (cw : Word) (din : List Byte),
    (decode s.params cw din = .error .illegalOp →
        runCommand cw din s = .next { s with err := 0x7#4, ok := false, pass := false }) ∧
      (decode s.params cw din = .error .operandTooLong →
        runCommand cw din s = .next { s with err := 0x8#4, ok := false, pass := false })

/-- R240: asserting `RST` between commands gives every state element its reset value and leaves the parameters; `STATUS`
then reads 0 and `CRCOUT` reads crc16 of the empty sequence. That the host's later events stay is log entry 3. -/
def Obligations.ResetSignalRestoresEveryElement : Prop :=
  ∀ (s : State) (rest : List HostEvent), s.input = .rst :: rest →
    ∃ t, step s = .next t ∧
      t = { params := s.params, lrc := 0x00#8, crc := 0xFFFF#16, err := 0x0#4, ok := false, pass := false,
            frm := 0x00000000#32, out := [], rxbuf := [], input := rest } ∧
      t.statusWord = 0x0000#16 ∧ t.crcout = crc16 s.params.crcMode []

/-- R241: at power-on the block is in the state that `RST` leaves, nothing left unspecified; R25's two values of
`CRCOUT` after reset. That `RST` is an event of the input list and that `State.reset` has the default parameters is the
model's choice (log entries 3 and 1). -/
def Obligations.PowerOnStateIsTheResetState : Prop :=
  (∀ s : State, s.params = Params.default → s.input = [.rst] → step s = .next State.reset) ∧
    (State.resetWith { Params.default with crcMode := .x25 }).crcout = 0x0000#16 ∧
    (State.resetWith { Params.default with crcMode := .ccittFalse }).crcout = 0xFFFF#16 ∧
    State.reset.statusWord = 0x0000#16

/-- R229: between commands the block is idle and holds its state indefinitely. That a step with nothing issued answers
the same state is the model's form of it (log entry 2). -/
def Obligations.IdleBlockHoldsItsState : Prop :=
  ∀ (k : Nat) (s : State), s.input = [] → Sys2Proof.core.run k s = .next s

/-- R210, R222, R223: nothing traps and nothing stops the block: every step from every state answers a next state. -/
def Obligations.EveryStepAnswersNext : Prop :=
  ∀ s : State, ∃ t, step s = .next t

/-- R240 with R13, R14, R27, R33, R35, R36: the invariant holds after reset, for every legal choice of parameters. -/
def Obligations.ResetMeetsTheInvariant : Prop :=
  Inv State.reset ∧ ∀ p : Params, p.wf = true → Inv (State.resetWith p)

/-- R27, R33, R35, R36, R40: every step, whatever the host issued, keeps the invariant: no reserved error code, one
outcome at most, `OUT` and `RXBUF` within their bounds. -/
def Obligations.EveryStepKeepsTheInvariant : Prop :=
  ∀ s t : State, Inv s → step s = .next t → Inv t

/-- R210, R223, R35, R36: from every state that meets the invariant, a run of any length on any input meets no fault and
no refusal and keeps the invariant. -/
def Obligations.RunsFromTheInvariantAreSafe : Prop :=
  ∀ s : State, Inv s → SafeRun s

/-- R40: no command and no reset changes a parameter, over a run of any length. -/
def Obligations.ParametersNeverChange : Prop :=
  ∀ (k : Nat) (s t : State), Sys2Proof.core.run k s = .next t → t.params = s.params

/-- R33: after any command completes, with an early error too, exactly one of `OK` = 1, `PASS` = 1 and `ERR` ≠ 0 holds,
so `STATUS` is not 0; in the reset state none holds. -/
def Obligations.CompletedCommandLeavesOneOutcome : Prop :=
  (∀ (s : State) (cw : Word) (din : List Byte),
      ∃ t, runCommand cw din s = .next t ∧ OneOutcome t ∧ t.statusWord ≠ 0x0000#16) ∧
    ∀ p : Params, (State.resetWith p).ok = false ∧ (State.resetWith p).pass = false ∧ (State.resetWith p).err = 0#4

/-- R26, R30, R31, R32: the fields of the `STATUS` word, the reserved bits, and `TIER` = 0 exactly when `COMPLETE` = 0.
`STATUS` after reset is 0. -/
def Obligations.StatusWordFields : Prop :=
  ∀ s : State,
    s.statusWord.extractLsb' 0 4 = s.err ∧ s.statusWord.getLsbD 4 = s.ok ∧ s.statusWord.getLsbD 5 = s.pass ∧
      s.statusWord.getLsbD 6 = (fic s.rxbuf).complete ∧ s.statusWord.extractLsb' 7 2 = (fic s.rxbuf).tier ∧
      s.statusWord.extractLsb' 9 7 = 0#7 ∧
      (s.statusWord.extractLsb' 7 2 = 0#2 ↔ s.statusWord.getLsbD 6 = false)

/-- R37, R39, R22: the host's reads show the whole state of the block: two states of one instance that read alike are
equal, so there is no hidden state; and each read has its register's width (R57). -/
def Obligations.HostReadsShowTheWholeState : Prop :=
  (∀ s t : State, s.params = t.params → s.input = t.input → (∀ r : HostReg, hostRead r s = hostRead r t) → s = t) ∧
    ∀ s : State, hostRead .status s = .half s.statusWord ∧ hostRead .crcout s = .half (crcFin s.params.crcMode s.crc)

/-- R60 says of commands that they take effect in the order issued, one after the other, and that none sees a later one.
The model's form of it, over its own list of host events, commands and `RST` alike: running the events of two batches is
running the first batch alone and then the second. That events stand in an input list is the model's choice (log entry 2),
and so is that an `RST` in the first batch leaves the second pending (log entry 3). -/
def Obligations.EventsTakeEffectInIssueOrder : Prop :=
  ∀ (s : State) (first second : List HostEvent),
    ∃ t, Sys2Proof.core.run first.length { s with input := first } = .next t ∧ t.input = [] ∧
      Sys2Proof.core.run (first.length + second.length) { s with input := first ++ second } =
        Sys2Proof.core.run second.length { t with input := second }

/-- R38, R23, R24, R34, R35, R36: which command writes which state. Every register outside a command's row keeps its
value, on every outcome; the two encoders and RX_APPEND write their buffer on success only. -/
def Obligations.CommandsWriteOnlyTheirRow : Prop :=
  ∀ (i : Instr) (s t : State), exec i s = .next t →
    t.params = s.params ∧ t.input = s.input ∧
      (i.op ∉ [.lrcInit, .lrcFeed, .lrcCalc] → t.lrc = s.lrc) ∧
      (i.op ∉ [.crcInit, .crcFeed, .crcCalc] → t.crc = s.crc) ∧
      (i.op ∉ [.lrcDec, .crcDec] → t.frm = s.frm) ∧
      (i.op ∉ [.lrcCalc, .crcCalc, .lrcEnc, .lrcDec, .crcEnc, .crcDec] → t.out = s.out) ∧
      (i.op ∉ [.rxClear, .rxAppend] → t.rxbuf = s.rxbuf) ∧
      (i.op ∈ [.lrcEnc, .crcEnc] → t.ok = false → t.out = s.out) ∧
      (i.op = .rxAppend → t.ok = false → t.rxbuf = s.rxbuf)

/-- R58: a command with the same `CW` and `DIN` issued twice leaves the state of the first, for every opcode but
LRC_FEED, CRC_FEED and RX_APPEND; each of those three is not idempotent. -/
def Obligations.RepeatedCommandsAreIdempotent : Prop :=
  (∀ (cw : Word) (din : List Byte) (s t : State), cw.toNat % 256 ∉ [0x02, 0x09, 0x19] →
      runCommand cw din s = .next t → runCommand cw din t = .next t) ∧
    ∀ cw ∈ [0x00000002#32, 0x00000009#32, 0x00000019#32],
      ∃ (din : List Byte) (s t u : State), runCommand cw din s = .next t ∧ runCommand cw din t = .next u ∧ u ≠ t

/-- R200: NOP's encoding and effect, and what fails with `ILLEGAL_OP` beside it. -/
def Obligations.NopChangesStatusOnly : Prop :=
  ∀ s : State,
    decode s.params 0x00000000#32 [] = .ok .nop ∧
      exec .nop s = .next { s with err := 0#4, ok := true, pass := false } ∧
      ∀ (cw : Word) (din : List Byte), cw.toNat % 256 = 0 → (cw ≠ 0x00000000#32 ∨ din ≠ []) →
        decode s.params cw din = .error .illegalOp

/-- R243: the re-initialising sequence, what it leaves, and LRC_DEC of the empty sequence. -/
def Obligations.ReinitialisationSequence : Prop :=
  ∀ s : State,
    (∃ t, execAll [.lrcInit, .crcInit, .rxClear, .nop] s = .next t ∧
        t = { s with lrc := 0x00#8, crc := 0xFFFF#16, rxbuf := [], err := 0#4, ok := true, pass := false } ∧
        t.statusWord = 0x0010#16) ∧
      exec (.lrcDec []) s =
        .next { s with out := [], frm := 0x00000000#32, err := 0#4, ok := false, pass := true }

/-! ### The LRC unit -/

/-- R104: the LRC function, its recursion, and its consequences: empty input, concatenation, order, self-check, the
errors it detects and the errors it does not. -/
def Obligations.LrcFunctionLaws : Prop :=
  lrcOf [] = 0x00#8 ∧
    (∀ (b : Byte) (xs : List Byte), lrcOf (b :: xs) = b ^^^ lrcOf xs) ∧
    (∀ xs ys : List Byte, lrcOf (xs ++ ys) = lrcOf xs ^^^ lrcOf ys) ∧
    (∀ xs ys : List Byte, xs.Perm ys → lrcOf xs = lrcOf ys) ∧
    (∀ xs : List Byte, lrcOf (xs ++ [lrcOf xs]) = 0x00#8) ∧
    (∀ (xs ys : List Byte) (b : Byte) (k : Nat), k < 8 →
      lrcOf (xs ++ [b ^^^ (1#8 <<< k)] ++ ys) ≠ lrcOf (xs ++ [b] ++ ys)) ∧
    ∀ (xs : List Byte) (flips : List Bool) (k : Nat), flips.length = xs.length → flips.count true % 2 = 0 →
      lrcOf (List.zipWith (fun b f => if f then b ^^^ (1#8 <<< k) else b) xs flips) = lrcOf xs

/-- R100: LRC_INIT, its encoding, and that LRC_INIT then LRC_FEED leaves the LRC of the bytes fed. -/
def Obligations.LrcInitClearsTheAccumulator : Prop :=
  ∀ s : State,
    decode s.params 0x00000001#32 [] = .ok .lrcInit ∧
      exec .lrcInit s = .next { s with lrc := 0x00#8, err := 0#4, ok := true, pass := false } ∧
      execAll [.lrcInit, .lrcInit] s = exec .lrcInit s ∧
      ∀ bytes : List Byte, execAll [.lrcInit, .lrcFeed bytes] s =
        .next { s with lrc := lrcOf bytes, err := 0#4, ok := true, pass := false }

/-- R101: LRC_FEED, its encoding, the empty operand, feeding in pieces, and feeding the same bytes twice. -/
def Obligations.LrcFeedFoldsTheOperand : Prop :=
  ∀ (s : State) (xs ys : List Byte),
    (xs.length ≤ s.params.dinMax → decode s.params 0x00000002#32 xs = .ok (.lrcFeed xs)) ∧
      exec (.lrcFeed xs) s = .next { s with lrc := s.lrc ^^^ lrcOf xs, err := 0#4, ok := true, pass := false } ∧
      execAll [.lrcFeed xs, .lrcFeed ys] s = exec (.lrcFeed (xs ++ ys)) s ∧
      execAll [.lrcFeed xs, .lrcFeed xs] s = .next { s with err := 0#4, ok := true, pass := false }

/-- R102: LRC_CALC, its encoding, its result in `LRC` and `OUT`, and the empty operand. -/
def Obligations.LrcCalcReplacesTheAccumulator : Prop :=
  ∀ (s : State) (xs : List Byte),
    (xs.length ≤ s.params.dinMax → decode s.params 0x00000003#32 xs = .ok (.lrcCalc xs)) ∧
      exec (.lrcCalc xs) s =
        .next { s with lrc := lrcOf xs, out := [lrcOf xs], err := 0#4, ok := true, pass := false } ∧
      exec (.lrcCalc []) s = .next { s with lrc := 0x00#8, out := [0x00#8], err := 0#4, ok := true, pass := false }

/-- R103: LRC_CHECK, its encoding, its three outcomes by the form of the operand, and the equivalent test. -/
def Obligations.LrcCheckComparesTheLastByte : Prop :=
  ∀ (s : State) (xs : List Byte) (x : Byte),
    (xs.length ≤ s.params.dinMax → decode s.params 0x00000004#32 xs = .ok (.lrcCheck xs)) ∧
      exec (.lrcCheck []) s = .next { s with err := 0x5#4, ok := false, pass := false } ∧
      (lrcOf xs = x → exec (.lrcCheck (xs ++ [x])) s = .next { s with err := 0#4, ok := true, pass := false }) ∧
      (lrcOf xs ≠ x → exec (.lrcCheck (xs ++ [x])) s = .next { s with err := 0x1#4, ok := false, pass := false }) ∧
      (lrcOf xs = x ↔ lrcOf (xs ++ [x]) = 0x00#8)

/-! ### The CRC unit -/

/-- R110: check values of both modes, the fixture of DOC0, and 0x8408 as 0x1021 reversed. -/
def Obligations.CrcCheckValues : Prop :=
  let digits := [0x31#8, 0x32#8, 0x33#8, 0x34#8, 0x35#8, 0x36#8, 0x37#8, 0x38#8, 0x39#8]
  let hunt := [0x80#8, 0x0A#8, 0x01#8, 0x03#8, 0x00#8, 0x00#8, 0x02#8, 0x11#8, 0x03#8, 0x01#8, 0x01#8, 0x14#8, 0x00#8]
  crc16 .x25 digits = 0x906E#16 ∧ crc16 .ccittFalse digits = 0x29B1#16 ∧
    crc16 .x25 hunt = 0xF89C#16 ∧ crc16 .ccittFalse hunt = 0xB64E#16 ∧
    (0x1021#16).reverse = 0x8408#16

/-- R110, R53: mode `X25` is mode `FALSE` reflected: the register of one is the other's, bits in reverse order, when
every input byte is reversed. -/
def Obligations.X25IsFalseReflected : Prop :=
  ∀ (c : Half) (bytes : List Byte),
    (crcFold .x25 c bytes).reverse = crcFold .ccittFalse c.reverse (bytes.map BitVec.reverse)

/-- R115: CRC arithmetic is over GF(2): in both modes the register after the XOR of two equally long inputs, from the
XOR of two registers, is the XOR of the two results. -/
def Obligations.CrcFoldIsLinear : Prop :=
  ∀ (m : CrcMode) (c d : Half) (xs ys : List Byte), xs.length = ys.length →
    crcFold m (c ^^^ d) (List.zipWith (fun a b => a ^^^ b) xs ys) = crcFold m c xs ^^^ crcFold m d ys

/-- R116: the residue of mode `X25` is one constant for every sequence, before and after the final XOR, and there is
none in mode `FALSE`. -/
def Obligations.X25ResidueIsConstant : Prop :=
  (∀ bytes : List Byte,
      let v := crc16 .x25 bytes
      let framed := bytes ++ [BitVec.ofNat 8 (v.toNat % 256), BitVec.ofNat 8 (v.toNat / 256)]
      crcFold .x25 0xFFFF#16 framed = 0xF0B8#16 ∧ crc16 .x25 framed = 0x0F47#16) ∧
    ∃ xs ys : List Byte,
      crc16 .ccittFalse (xs ++ lowFirst (crc16 .ccittFalse xs)) ≠
        crc16 .ccittFalse (ys ++ lowFirst (crc16 .ccittFalse ys))

/-- R111: CRC_INIT, its encoding, and `CRCOUT` afterwards in each mode. -/
def Obligations.CrcInitSetsTheInitialValue : Prop :=
  ∀ s : State,
    decode s.params 0x00000008#32 [] = .ok .crcInit ∧
      execAll [.crcInit, .crcInit] s = exec .crcInit s ∧
      ∃ t, exec .crcInit s = .next t ∧
        t = { s with crc := 0xFFFF#16, err := 0#4, ok := true, pass := false } ∧
        t.crcout = crc16 s.params.crcMode [] ∧
        (s.params.crcMode = .x25 → t.crcout = 0x0000#16) ∧ (s.params.crcMode = .ccittFalse → t.crcout = 0xFFFF#16)

/-- R112: CRC_FEED, its encoding, the empty operand, feeding in pieces, and that after CRC_INIT and any sequence of
CRC_FEEDs `CRCOUT` is the CRC of their operands' concatenation. -/
def Obligations.CrcFeedStreamsTheOperands : Prop :=
  ∀ (s : State) (xs ys : List Byte) (chunks : List (List Byte)),
    (xs.length ≤ s.params.dinMax → decode s.params 0x00000009#32 xs = .ok (.crcFeed xs)) ∧
      exec (.crcFeed xs) s =
        .next { s with crc := xs.foldl (crcStep s.params.crcMode) s.crc, err := 0#4, ok := true, pass := false } ∧
      exec (.crcFeed []) s = .next { s with err := 0#4, ok := true, pass := false } ∧
      execAll [.crcFeed xs, .crcFeed ys] s = exec (.crcFeed (xs ++ ys)) s ∧
      ∃ t, execAll (.crcInit :: chunks.map .crcFeed) s = .next t ∧ t.crcout = crc16 s.params.crcMode chunks.flatten ∧
        t = { s with crc := crcFold s.params.crcMode 0xFFFF#16 chunks.flatten, err := 0#4, ok := true, pass := false }

/-- R113: CRC_CALC, its encoding, `CRC`, `CRCOUT` and `OUT`, low byte first, and the empty operand in each mode. -/
def Obligations.CrcCalcWritesLowByteFirst : Prop :=
  ∀ (s : State) (xs : List Byte),
    (xs.length ≤ s.params.dinMax → decode s.params 0x0000000A#32 xs = .ok (.crcCalc xs)) ∧
      (∃ t, exec (.crcCalc xs) s = .next t ∧ t.crcout = crc16 s.params.crcMode xs ∧
        t = { s with
          crc := xs.foldl (crcStep s.params.crcMode) 0xFFFF#16
          out := [BitVec.ofNat 8 ((crc16 s.params.crcMode xs).toNat % 256),
            BitVec.ofNat 8 ((crc16 s.params.crcMode xs).toNat / 256)]
          err := 0#4
          ok := true
          pass := false }) ∧
      (s.params.crcMode = .x25 → ∃ t, exec (.crcCalc []) s = .next t ∧ t.out = [0x00#8, 0x00#8]) ∧
      (s.params.crcMode = .ccittFalse → ∃ t, exec (.crcCalc []) s = .next t ∧ t.out = [0xFF#8, 0xFF#8])

/-- R114: CRC_CHECK, its encoding, and its three outcomes by the form of the operand: shorter than two bytes, or data
and a stored CRC, low byte first, that equals the CRC of the data or not. -/
def Obligations.CrcCheckComparesTheStoredCrc : Prop :=
  ∀ (s : State) (xs : List Byte) (lo hi : Byte),
    (xs.length ≤ s.params.dinMax → decode s.params 0x0000000B#32 xs = .ok (.crcCheck xs)) ∧
      (xs.length < 2 → exec (.crcCheck xs) s = .next { s with err := 0x5#4, ok := false, pass := false }) ∧
      ((crc16 s.params.crcMode xs).toNat = 256 * hi.toNat + lo.toNat →
        exec (.crcCheck (xs ++ [lo, hi])) s = .next { s with err := 0#4, ok := true, pass := false }) ∧
      ((crc16 s.params.crcMode xs).toNat ≠ 256 * hi.toNat + lo.toNat →
        exec (.crcCheck (xs ++ [lo, hi])) s = .next { s with err := 0x1#4, ok := false, pass := false })

/-- R254, R24: a CRC streamed over several CRC_FEEDs is not disturbed by any other command in between, except CRC_INIT
and CRC_CALC: `CRCOUT` is the CRC of what was fed. -/
def Obligations.StreamedCrcIgnoresOtherCommands : Prop :=
  ∀ (s : State) (is : List Instr), (∀ i ∈ is, i.op ≠ .crcInit ∧ i.op ≠ .crcCalc) →
    ∃ t, execAll (.crcInit :: is) s = .next t ∧
      t.crcout = crc16 s.params.crcMode ((is.filter fun i => decide (i.op = .crcFeed)).map Instr.din).flatten

/-- R254, R23: the same for an LRC streamed over several LRC_FEEDs. -/
def Obligations.StreamedLrcIgnoresOtherCommands : Prop :=
  ∀ (s : State) (is : List Instr), (∀ i ∈ is, i.op ≠ .lrcInit ∧ i.op ≠ .lrcCalc) →
    ∃ t, execAll (.lrcInit :: is) s = .next t ∧
      t.lrc = lrcOf ((is.filter fun i => decide (i.op = .lrcFeed)).map Instr.din).flatten

/-! ### LRC frames -/

/-- R150 with R80: LRC_ENC, its encoding, the frame it builds byte by byte, and the payload that does not fit. -/
def Obligations.LrcEncBuildsTheFrame : Prop :=
  ∀ (s : State) (xs : List Byte),
    let body := [s.params.stxByte, BitVec.ofNat 8 (xs.length / 256), BitVec.ofNat 8 (xs.length % 256)] ++ xs ++
      [s.params.etxByte]
    (xs.length ≤ s.params.dinMax → decode s.params 0x00000010#32 xs = .ok (.lrcEnc xs)) ∧
      (xs.length ≤ 65535 → exec (.lrcEnc xs) s =
        .next { s with out := body ++ [lrcOf body], err := 0#4, ok := true, pass := false }) ∧
      (65535 < xs.length → exec (.lrcEnc xs) s = .next { s with err := 0x4#4, ok := false, pass := false }) ∧
      (body ++ [lrcOf body]).length = xs.length + 5

/-- R81: in every LRC frame, built by LRC_ENC or accepted by LRC_DEC, the last byte is the XOR of the bytes before it,
and the XOR of all bytes is 0. -/
def Obligations.LrcFrameInvariant : Prop :=
  ∀ (s t : State) (xs : List Byte),
    (exec (.lrcEnc xs) s = .next t → t.ok = true →
        t.out.getLast? = some (lrcOf t.out.dropLast) ∧ lrcOf t.out = 0x00#8) ∧
      (exec (.lrcDec xs) s = .next t → t.ok = true →
        xs.getLast? = some (lrcOf xs.dropLast) ∧ lrcOf xs = 0x00#8)

/-- R151: LRC_DEC, its encoding, and its five outcomes in the order of its checks, by the form of the operand; `OUT` and
`FRM` are written on each. -/
def Obligations.LrcDecOutcomes : Prop :=
  ∀ (s : State) (din payload : List Byte) (stx hi lo etx x : Byte),
    let len := hi.toNat * 256 + lo.toNat
    let raw := fun (d : List Byte) (e : BitVec 4) (pass : Bool) =>
      { s with out := d, frm := 0x00000000#32, err := e, ok := false, pass := pass }
    let framed := stx :: hi :: lo :: payload ++ [etx, x]
    (din.length ≤ s.params.dinMax → decode s.params 0x00000011#32 din = .ok (.lrcDec din)) ∧
      (din.length < 5 ∨ din.head? ≠ some s.params.stxByte → exec (.lrcDec din) s = .next (raw din 0x0#4 true)) ∧
      (5 ≤ (s.params.stxByte :: hi :: lo :: din).length → din.length ≠ len + 2 →
        exec (.lrcDec (s.params.stxByte :: hi :: lo :: din)) s =
          .next (raw (s.params.stxByte :: hi :: lo :: din) 0x2#4 false)) ∧
      (stx = s.params.stxByte → payload.length = len → etx ≠ s.params.etxByte →
        exec (.lrcDec framed) s = .next (raw framed 0x3#4 false)) ∧
      (stx = s.params.stxByte → payload.length = len → etx = s.params.etxByte →
        lrcOf (stx :: hi :: lo :: payload ++ [etx]) ≠ x → exec (.lrcDec framed) s = .next (raw framed 0x1#4 false)) ∧
      (stx = s.params.stxByte → payload.length = len → etx = s.params.etxByte →
        lrcOf (stx :: hi :: lo :: payload ++ [etx]) = x → exec (.lrcDec framed) s =
          .next { s with out := payload, frm := BitVec.ofNat 32 len, err := 0#4, ok := true, pass := false })

/-- R154: the round trip of LRC frames, on the commands as the host issues them. -/
def Obligations.LrcFrameRoundTrip : Prop :=
  ∀ (s : State) (xs : List Byte), xs.length ≤ 65535 → xs.length + 5 ≤ s.params.dinMax →
    ∃ t u, runCommand 0x00000010#32 xs s = .next t ∧ t.ok = true ∧
      runCommand 0x00000011#32 t.out t = .next u ∧ u.ok = true ∧ u.out = xs ∧ u.frm.toNat = xs.length

/-- R88, R151, R150: LRC_DEC succeeds on nothing but what LRC_ENC builds: the accepted input is the frame of the payload
and length it returns. -/
def Obligations.LrcDecAcceptsOnlyBuiltFrames : Prop :=
  ∀ (s t : State) (din : List Byte), exec (.lrcDec din) s = .next t → t.ok = true →
    t.out.length ≤ 65535 ∧ t.frm.toNat = t.out.length ∧
      ∃ u, exec (.lrcEnc t.out) t = .next u ∧ u.ok = true ∧ u.out = din

/-- R155: one flipped bit in an LRC frame, by the byte it is in: the LRC byte or DATA, a LEN byte, STX. -/
def Obligations.LrcFrameBitErrorsAreDetected : Prop :=
  ∀ (s t : State) (xs : List Byte) (j k : Nat), exec (.lrcEnc xs) s = .next t → t.ok = true →
    j < xs.length + 5 → k < 8 →
    let bad := t.out.modify j fun b => b ^^^ (1#8 <<< k)
    ∃ u, exec (.lrcDec bad) t = .next u ∧ u.ok = false ∧ u.out = bad ∧ u.frm = 0x00000000#32 ∧
      (j = xs.length + 4 ∨ 3 ≤ j ∧ j < xs.length + 3 → u.err = 0x1#4 ∧ u.pass = false) ∧
      (j = 1 ∨ j = 2 → u.err = 0x2#4 ∧ u.pass = false) ∧
      (j = 0 → u.err = 0x0#4 ∧ u.pass = true)

/-- R256, R80: the host's rule cuts an LRC frame out of a buffer exactly: nothing while the frame is not whole, and the
frame alone once it is, whatever follows it. -/
def Obligations.HostRuleCutsLrcFramesExactly : Prop :=
  ∀ (s t : State) (xs rest : List Byte) (n : Nat), exec (.lrcEnc xs) s = .next t → t.ok = true →
    hostLrcFrame s.params (t.out ++ rest) = some t.out ∧
      (n < t.out.length → hostLrcFrame s.params (t.out.take n) = none)

/-! ### CRC frames -/

/-- R156 with R83, R84: CRC_ENC, its encoding from its three bytes, the frame it builds, and the payload that does not
fit. -/
def Obligations.CrcEncBuildsTheFrame : Prop :=
  ∀ (s : State) (k c i : Byte) (xs : List Byte),
    let body := [k, BitVec.ofNat 8 (xs.length + s.params.lenBias.val), c, i] ++ xs
    let v := (crc16 s.params.crcMode body).toNat
    (xs.length ≤ s.params.dinMax →
        decode s.params (i ++ c ++ k ++ 0x12#8) xs = .ok (.crcEnc k c i xs)) ∧
      (xs.length + s.params.lenBias.val ≤ 255 → exec (.crcEnc k c i xs) s =
        .next { s with
          out := body ++ [BitVec.ofNat 8 (v % 256), BitVec.ofNat 8 (v / 256)], err := 0#4, ok := true, pass := false }) ∧
      (255 < xs.length + s.params.lenBias.val →
        exec (.crcEnc k c i xs) s = .next { s with err := 0x4#4, ok := false, pass := false }) ∧
      (body ++ [BitVec.ofNat 8 (v % 256), BitVec.ofNat 8 (v / 256)]).length = xs.length + 6

/-- R157: CRC_DEC, its encoding, and its four outcomes in the order of its checks, by the form of the operand; `OUT` and
`FRM` are written on each, and there is no pass-through. -/
def Obligations.CrcDecOutcomes : Prop :=
  ∀ (s : State) (din payload : List Byte) (k len c i lo hi : Byte),
    let raw := fun (d : List Byte) (e : BitVec 4) =>
      { s with out := d, frm := 0x00000000#32, err := e, ok := false, pass := false }
    let body := k :: len :: c :: i :: payload
    let fits := s.params.lenBias.val ≤ len.toNat ∧ payload.length + s.params.lenBias.val = len.toNat
    (din.length ≤ s.params.dinMax → decode s.params 0x00000013#32 din = .ok (.crcDec din)) ∧
      (din.length < 6 → exec (.crcDec din) s = .next (raw din 0x5#4)) ∧
      (¬ fits → exec (.crcDec (body ++ [lo, hi])) s = .next (raw (body ++ [lo, hi]) 0x2#4)) ∧
      (fits → (crc16 s.params.crcMode body).toNat ≠ 256 * hi.toNat + lo.toNat →
        exec (.crcDec (body ++ [lo, hi])) s = .next (raw (body ++ [lo, hi]) 0x1#4)) ∧
      (fits → (crc16 s.params.crcMode body).toNat = 256 * hi.toNat + lo.toNat →
        exec (.crcDec (body ++ [lo, hi])) s =
          .next { s with
            out := payload
            frm := i ++ c ++ len ++ k
            err := 0#4
            ok := true
            pass := false })

/-- R158: the round trip of CRC frames, and that CRC_CHECK accepts a built frame, on the commands as the host issues
them. -/
def Obligations.CrcFrameRoundTrip : Prop :=
  ∀ (s : State) (k c i : Byte) (xs : List Byte),
    xs.length ≤ 255 - s.params.lenBias.val → xs.length + 6 ≤ s.params.dinMax →
    ∃ t u w, runCommand (i ++ c ++ k ++ 0x12#8) xs s = .next t ∧ t.ok = true ∧
      runCommand 0x00000013#32 t.out t = .next u ∧ u.ok = true ∧ u.out = xs ∧
      u.frm = i ++ c ++ BitVec.ofNat 8 (xs.length + s.params.lenBias.val) ++ k ∧
      runCommand 0x0000000B#32 t.out t = .next w ∧ w.ok = true

/-- R88, R157, R156: CRC_DEC succeeds on nothing but what CRC_ENC builds: the accepted input is the frame of the payload
and the header bytes it returns. -/
def Obligations.CrcDecAcceptsOnlyBuiltFrames : Prop :=
  ∀ (s t : State) (din : List Byte), exec (.crcDec din) s = .next t → t.ok = true →
    ∃ u, exec (.crcEnc (t.frm.extractLsb' 0 8) (t.frm.extractLsb' 16 8) (t.frm.extractLsb' 24 8) t.out) t = .next u ∧
      u.ok = true ∧ u.out = din ∧ (t.frm.extractLsb' 8 8).toNat = t.out.length + s.params.lenBias.val

/-! ### Completeness and the reassembly buffer -/

/-- R160: the completeness function, tier by tier in order; the empty buffer; it reads only the length and the first
byte. -/
def Obligations.FicDecidesByThreeTiers : Prop :=
  fic [] = ⟨false, 0#2⟩ ∧
    ∀ (b : Byte) (rest : List Byte),
      let n := (b :: rest).length
      (b = 0x04#8 → fic (b :: rest) = if 8 ≤ n then ⟨true, 1#2⟩ else ⟨false, 0#2⟩) ∧
        (b = 0x0B#8 → fic (b :: rest) = if 15 ≤ n then ⟨true, 1#2⟩ else ⟨false, 0#2⟩) ∧
        (b = 0x01#8 → n = 1 → fic (b :: rest) = ⟨true, 2#2⟩) ∧
        (b ≠ 0x04#8 → b ≠ 0x0B#8 → ¬ (n = 1 ∧ b = 0x01#8) →
          fic (b :: rest) = if b.toNat + 4 ≤ n then ⟨true, 3#2⟩ else ⟨false, 0#2⟩) ∧
        ∀ other : List Byte, other.length = rest.length → fic (b :: other) = fic (b :: rest)

/-- R163: the five properties of the completeness function. -/
def Obligations.FicProperties : Prop :=
  (∀ (b : Byte) (rest : List Byte), b = 0x04#8 ∨ b = 0x0B#8 →
      ((fic (b :: rest)).complete = true ↔ b.toNat + 4 ≤ (b :: rest).length)) ∧
    (∀ bytes : List Byte, (fic bytes).complete = true ↔
      ∃ b rest, bytes = b :: rest ∧ (b.toNat + 4 ≤ bytes.length ∨ bytes.length = 1 ∧ b = 0x01#8)) ∧
    (∀ xs ys : List Byte, (fic xs).complete = true → xs ≠ [0x01#8] → (fic (xs ++ ys)).complete = true) ∧
    (∀ rest : List Byte, fic (0x01#8 :: rest) =
      if rest = [] then ⟨true, 2#2⟩ else if 5 ≤ (0x01#8 :: rest).length then ⟨true, 3#2⟩ else ⟨false, 0#2⟩) ∧
    (∀ rest : List Byte, ((fic (0x04#8 :: rest)).complete = true ↔ 8 ≤ (0x04#8 :: rest).length) ∧
      ((fic (0x0B#8 :: rest)).complete = true ↔ 15 ≤ (0x0B#8 :: rest).length)) ∧
    ∀ rest : List Byte, ((fic (0x00#8 :: rest)).complete = true ↔ 4 ≤ (0x00#8 :: rest).length) ∧
      ((fic (0xFF#8 :: rest)).complete = true ↔ 259 ≤ (0xFF#8 :: rest).length)

/-- R164, R252: what the completeness function says of input it does not judge: an LRC frame led by 0x02 is complete at
6 bytes whatever its LEN, and a reply with a prefix 0x01 or 0x10 left on at 5 or 20 bytes. -/
def Obligations.FicMisjudgesFramesAndPrefixes : Prop :=
  (∀ (s t : State) (xs : List Byte), s.params.stxByte = 0x02#8 → exec (.lrcEnc xs) s = .next t → t.ok = true →
      ∀ n : Nat, n ≤ t.out.length → ((fic (t.out.take n)).complete = true ↔ 6 ≤ n)) ∧
    (∀ reply : List Byte, reply ≠ [] → ((fic (0x01#8 :: reply)).complete = true ↔ 5 ≤ reply.length + 1)) ∧
    ∀ reply : List Byte, ((fic (0x10#8 :: reply)).complete = true ↔ 20 ≤ reply.length + 1)

/-- R161: RX_CLEAR, its encoding and effect; `STATUS` then reads 0x0010. -/
def Obligations.RxClearEmptiesTheBuffer : Prop :=
  ∀ s : State,
    decode s.params 0x00000018#32 [] = .ok .rxClear ∧ execAll [.rxClear, .rxClear] s = exec .rxClear s ∧
      ∃ t, exec .rxClear s = .next t ∧ t = { s with rxbuf := [], err := 0#4, ok := true, pass := false } ∧
        t.statusWord = 0x0010#16

/-- R162: RX_APPEND, its encoding, all or nothing, the empty chunk, and `COMPLETE` and `TIER` of the new buffer. -/
def Obligations.RxAppendIsAllOrNothing : Prop :=
  ∀ (s : State) (xs : List Byte),
    (xs.length ≤ s.params.dinMax → decode s.params 0x00000019#32 xs = .ok (.rxAppend xs)) ∧
      (s.rxbuf.length + xs.length ≤ s.params.rxbufCap →
        ∃ t, exec (.rxAppend xs) s = .next t ∧
          t = { s with rxbuf := s.rxbuf ++ xs, err := 0#4, ok := true, pass := false } ∧
          t.statusWord.getLsbD 6 = (fic (s.rxbuf ++ xs)).complete ∧
          t.statusWord.extractLsb' 7 2 = (fic (s.rxbuf ++ xs)).tier) ∧
      (s.params.rxbufCap < s.rxbuf.length + xs.length →
        exec (.rxAppend xs) s = .next { s with err := 0x6#4, ok := false, pass := false })

/-- R36, R162, R161: after RX_CLEAR, and while no RX_CLEAR follows, the buffer is the concatenation of the chunks
appended, if they fit, whatever other commands come between them. -/
def Obligations.ReassemblyConcatenatesTheChunks : Prop :=
  ∀ (s : State) (is : List Instr), (∀ i ∈ is, i.op ≠ .rxClear) →
    let chunks := ((is.filter fun i => decide (i.op = .rxAppend)).map Instr.din).flatten
    chunks.length ≤ s.params.rxbufCap →
      ∃ t, execAll (.rxClear :: is) s = .next t ∧ t.rxbuf = chunks
end

