-- ==== Sys2Proof/Laws/Assembler.lean ====
section
/-! SUPPORT. The assembler's text: how the pieces of a line cut into tokens, and that written bytes are read back. -/

namespace Sys2Proof.Machine

/-- A character that belongs to a word: not a separator, not a brace, not a comma, not the start of a comment. -/
def IsWordChar (c : Char) : Prop :=
  ¬ c = ';' ∧ ¬ (c = ' ' ∨ c = '\t') ∧ ¬ c = openBrace ∧ ¬ c = closeBrace ∧ ¬ c = ','

/-- The characters of a word gather until something else ends it. -/
theorem tokens_word (w acc rest : List Char) (h : ∀ c ∈ w, IsWordChar c) :
    tokens acc (w ++ rest) = tokens (acc ++ w) rest := by
  induction w generalizing acc with
  | nil => simp
  | cons c w ih =>
    obtain ⟨h1, h2, h3, h4, h5⟩ := h c (by simp)
    rw [List.cons_append, tokens, if_neg h1, if_neg h2, if_neg h3, if_neg h4, if_neg h5, ih _ fun x hx => h x (by simp [hx])]
    simp

theorem tokens_nil (acc : List Char) : tokens acc [] = flushWord acc [] := rfl

theorem tokens_space (acc rest : List Char) : tokens acc (' ' :: rest) = flushWord acc (tokens [] rest) := by
  rw [tokens, if_neg (by decide), if_pos (by decide)]

theorem tokens_comma (acc rest : List Char) : tokens acc (',' :: rest) = flushWord acc (.comma :: tokens [] rest) := by
  rw [tokens, if_neg (by decide), if_neg (by decide), if_neg (by decide), if_neg (by decide), if_pos rfl]

theorem tokens_openBrace (acc rest : List Char) :
    tokens acc (openBrace :: rest) = flushWord acc (.openB :: tokens [] rest) := by
  rw [tokens, if_neg (by decide), if_neg (by decide), if_pos rfl]

theorem tokens_closeBrace (acc rest : List Char) :
    tokens acc (closeBrace :: rest) = flushWord acc (.closeB :: tokens [] rest) := by
  rw [tokens, if_neg (by decide), if_neg (by decide), if_neg (by decide), if_pos rfl]

theorem flushWord_ne_nil {w : List Char} (h : w ≠ []) (rest : List Token) : flushWord w rest = .word w :: rest := if_neg h

@[simp] theorem flushWord_nil (rest : List Token) : flushWord [] rest = rest := rfl

/-- Every hexadecimal digit that is written is a word character and is read back. -/
theorem hexChar_read : ∀ n : Fin 16, IsWordChar (hexChar n.val) ∧ hexValue (hexChar n.val) = some n.val := by
  unfold IsWordChar
  decide

theorem readHexByte_hexByte (b : Byte) : readHexByte (hexByte b) = some b := by
  have hb := b.isLt
  have h1 := (hexChar_read ⟨b.toNat / 16, by omega⟩).2
  have h2 := (hexChar_read ⟨b.toNat % 16, by omega⟩).2
  simp only at h1 h2
  simp only [readHexByte, hexByte, h1, h2, Option.some.injEq]
  apply BitVec.eq_of_toNat_eq
  simp
  omega

theorem hexByte_word (b : Byte) : ∀ c ∈ hexByte b, IsWordChar c := by
  have hb := b.isLt
  intro c hc
  simp only [hexByte, List.mem_cons, List.not_mem_nil, or_false] at hc
  rcases hc with rfl | rfl
  · exact (hexChar_read ⟨b.toNat / 16, by omega⟩).1
  · exact (hexChar_read ⟨b.toNat % 16, by omega⟩).1

/-- The tokens of a written list of bytes with its closing brace. -/
theorem tokens_spacedBytes (bytes : List Byte) :
    tokens [] (spacedBytes bytes ++ [closeBrace]) = bytes.map (fun b => Token.word (hexByte b)) ++ [.closeB] := by
  induction bytes with
  | nil => rw [spacedBytes, List.nil_append, tokens_closeBrace]; rfl
  | cons b rest ih =>
    cases rest with
    | nil =>
      rw [spacedBytes, tokens_word _ _ _ (hexByte_word b), List.nil_append, tokens_closeBrace,
        flushWord_ne_nil (by simp [hexByte])]
      rfl
    | cons c l =>
      rw [spacedBytes, List.append_assoc, tokens_word _ _ _ (hexByte_word b), List.nil_append, List.cons_append,
        tokens_space, flushWord_ne_nil (by simp [hexByte]), ih]
      rfl

theorem tokens_bytesText (bytes : List Byte) :
    tokens [] (bytesText bytes) = .openB :: (bytes.map (fun b => Token.word (hexByte b)) ++ [.closeB]) := by
  rw [bytesText, List.cons_append, tokens_openBrace, tokens_spacedBytes]
  rfl

theorem readBytes_words (bytes : List Byte) :
    readBytes (bytes.map (fun b => Token.word (hexByte b)) ++ [.closeB]) = some bytes := by
  induction bytes with
  | nil => rfl
  | cons b rest ih => rw [List.map_cons, List.cons_append, readBytes, readHexByte_hexByte, ih]

theorem opOfMnemonic_mnemonic (o : Op) : opOfMnemonic (mnemonic o) = some o := by cases o <;> decide

end Sys2Proof.Machine
end

