-- ==== Sys2Proof/Laws/Bits.lean ====
section
/-! SUPPORT. The fields of an appended bit vector, and the fields of the two kinds of command word. -/

namespace Sys2Proof

theorem extract_append_low {v w n : Nat} (x : BitVec v) (y : BitVec w) (i : Nat) (h : i + n ≤ w) :
    (x ++ y).extractLsb' i n = y.extractLsb' i n := by
  apply BitVec.eq_of_getLsbD_eq
  intro k hk
  have h1 : i + k < w := by omega
  simp [BitVec.getLsbD_append, hk, h1]

theorem extract_append_high {v w n : Nat} (x : BitVec v) (y : BitVec w) (i : Nat) (h : w ≤ i) :
    (x ++ y).extractLsb' i n = x.extractLsb' (i - w) n := by
  apply BitVec.eq_of_getLsbD_eq
  intro k hk
  have h1 : ¬ i + k < w := by omega
  have h2 : i + k - w = i - w + k := by omega
  simp [BitVec.getLsbD_append, hk, h1, h2]

@[simp] theorem opField_plainWord (o : Op) : opField (plainWord o) = o.code := by cases o <;> rfl

@[simp] theorem reservedField_plainWord (o : Op) : reservedField (plainWord o) = 0#24 := by cases o <;> rfl

@[simp] theorem opField_append (d c b a : Byte) : opField (d ++ c ++ b ++ a) = a := by
  unfold opField
  rw [extract_append_low _ _ _ (by omega)]
  simp

@[simp] theorem faField_append (d c b a : Byte) : faField (d ++ c ++ b ++ a) = b := by
  unfold faField
  rw [extract_append_high _ _ _ (by omega), extract_append_low _ _ _ (by omega)]
  simp

@[simp] theorem fbField_append (d c b a : Byte) : fbField (d ++ c ++ b ++ a) = c := by
  unfold fbField
  rw [extract_append_high _ _ _ (by omega), extract_append_high _ _ _ (by omega),
    extract_append_low _ _ _ (by omega)]
  simp

@[simp] theorem fcField_append (d c b a : Byte) : fcField (d ++ c ++ b ++ a) = d := by
  unfold fcField
  rw [extract_append_high _ _ _ (by omega), extract_append_high _ _ _ (by omega),
    extract_append_high _ _ _ (by omega)]
  simp

/-- A command word is its four fields, `FC` highest. -/
theorem word_eq_fields (cw : Word) : fcField cw ++ fbField cw ++ faField cw ++ opField cw = cw := by
  apply BitVec.eq_of_toNat_eq
  simp only [fcField, fbField, faField, opField, BitVec.toNat_append, BitVec.extractLsb'_toNat]
  have h := cw.isLt
  rw [← Nat.shiftLeft_add_eq_or_of_lt (by omega), ← Nat.shiftLeft_add_eq_or_of_lt (by omega),
    ← Nat.shiftLeft_add_eq_or_of_lt (by omega)]
  simp only [Nat.shiftLeft_eq, Nat.shiftRight_eq_div_pow]
  omega

/-- A command word is its reserved field above its opcode. -/
theorem word_eq_reserved_op (cw : Word) : reservedField cw ++ opField cw = cw := by
  apply BitVec.eq_of_toNat_eq
  simp only [reservedField, opField, BitVec.toNat_append, BitVec.extractLsb'_toNat]
  have h := cw.isLt
  rw [← Nat.shiftLeft_add_eq_or_of_lt (by omega)]
  simp only [Nat.shiftLeft_eq, Nat.shiftRight_eq_div_pow]
  omega

end Sys2Proof
end

