-- ==== Sys2Proof/Laws/State.lean ====
section
/-! SUPPORT. One lemma per field per update of `State`, so that no proof unfolds a record update. -/

namespace Sys2Proof.Machine

@[simp] theorem State.setLrc_params (s : State) (v : Byte) : (s.setLrc v).params = s.params := rfl
@[simp] theorem State.setLrc_lrc (s : State) (v : Byte) : (s.setLrc v).lrc = v := rfl
@[simp] theorem State.setLrc_crc (s : State) (v : Byte) : (s.setLrc v).crc = s.crc := rfl
@[simp] theorem State.setLrc_err (s : State) (v : Byte) : (s.setLrc v).err = s.err := rfl
@[simp] theorem State.setLrc_ok (s : State) (v : Byte) : (s.setLrc v).ok = s.ok := rfl
@[simp] theorem State.setLrc_pass (s : State) (v : Byte) : (s.setLrc v).pass = s.pass := rfl
@[simp] theorem State.setLrc_frm (s : State) (v : Byte) : (s.setLrc v).frm = s.frm := rfl
@[simp] theorem State.setLrc_out (s : State) (v : Byte) : (s.setLrc v).out = s.out := rfl
@[simp] theorem State.setLrc_rxbuf (s : State) (v : Byte) : (s.setLrc v).rxbuf = s.rxbuf := rfl
@[simp] theorem State.setLrc_input (s : State) (v : Byte) : (s.setLrc v).input = s.input := rfl

@[simp] theorem State.setCrc_params (s : State) (v : Half) : (s.setCrc v).params = s.params := rfl
@[simp] theorem State.setCrc_lrc (s : State) (v : Half) : (s.setCrc v).lrc = s.lrc := rfl
@[simp] theorem State.setCrc_crc (s : State) (v : Half) : (s.setCrc v).crc = v := rfl
@[simp] theorem State.setCrc_err (s : State) (v : Half) : (s.setCrc v).err = s.err := rfl
@[simp] theorem State.setCrc_ok (s : State) (v : Half) : (s.setCrc v).ok = s.ok := rfl
@[simp] theorem State.setCrc_pass (s : State) (v : Half) : (s.setCrc v).pass = s.pass := rfl
@[simp] theorem State.setCrc_frm (s : State) (v : Half) : (s.setCrc v).frm = s.frm := rfl
@[simp] theorem State.setCrc_out (s : State) (v : Half) : (s.setCrc v).out = s.out := rfl
@[simp] theorem State.setCrc_rxbuf (s : State) (v : Half) : (s.setCrc v).rxbuf = s.rxbuf := rfl
@[simp] theorem State.setCrc_input (s : State) (v : Half) : (s.setCrc v).input = s.input := rfl

@[simp] theorem State.setFrm_params (s : State) (v : Word) : (s.setFrm v).params = s.params := rfl
@[simp] theorem State.setFrm_lrc (s : State) (v : Word) : (s.setFrm v).lrc = s.lrc := rfl
@[simp] theorem State.setFrm_crc (s : State) (v : Word) : (s.setFrm v).crc = s.crc := rfl
@[simp] theorem State.setFrm_err (s : State) (v : Word) : (s.setFrm v).err = s.err := rfl
@[simp] theorem State.setFrm_ok (s : State) (v : Word) : (s.setFrm v).ok = s.ok := rfl
@[simp] theorem State.setFrm_pass (s : State) (v : Word) : (s.setFrm v).pass = s.pass := rfl
@[simp] theorem State.setFrm_frm (s : State) (v : Word) : (s.setFrm v).frm = v := rfl
@[simp] theorem State.setFrm_out (s : State) (v : Word) : (s.setFrm v).out = s.out := rfl
@[simp] theorem State.setFrm_rxbuf (s : State) (v : Word) : (s.setFrm v).rxbuf = s.rxbuf := rfl
@[simp] theorem State.setFrm_input (s : State) (v : Word) : (s.setFrm v).input = s.input := rfl

@[simp] theorem State.setOut_params (s : State) (v : List Byte) : (s.setOut v).params = s.params := rfl
@[simp] theorem State.setOut_lrc (s : State) (v : List Byte) : (s.setOut v).lrc = s.lrc := rfl
@[simp] theorem State.setOut_crc (s : State) (v : List Byte) : (s.setOut v).crc = s.crc := rfl
@[simp] theorem State.setOut_err (s : State) (v : List Byte) : (s.setOut v).err = s.err := rfl
@[simp] theorem State.setOut_ok (s : State) (v : List Byte) : (s.setOut v).ok = s.ok := rfl
@[simp] theorem State.setOut_pass (s : State) (v : List Byte) : (s.setOut v).pass = s.pass := rfl
@[simp] theorem State.setOut_frm (s : State) (v : List Byte) : (s.setOut v).frm = s.frm := rfl
@[simp] theorem State.setOut_out (s : State) (v : List Byte) : (s.setOut v).out = v := rfl
@[simp] theorem State.setOut_rxbuf (s : State) (v : List Byte) : (s.setOut v).rxbuf = s.rxbuf := rfl
@[simp] theorem State.setOut_input (s : State) (v : List Byte) : (s.setOut v).input = s.input := rfl

@[simp] theorem State.setRxbuf_params (s : State) (v : List Byte) : (s.setRxbuf v).params = s.params := rfl
@[simp] theorem State.setRxbuf_lrc (s : State) (v : List Byte) : (s.setRxbuf v).lrc = s.lrc := rfl
@[simp] theorem State.setRxbuf_crc (s : State) (v : List Byte) : (s.setRxbuf v).crc = s.crc := rfl
@[simp] theorem State.setRxbuf_err (s : State) (v : List Byte) : (s.setRxbuf v).err = s.err := rfl
@[simp] theorem State.setRxbuf_ok (s : State) (v : List Byte) : (s.setRxbuf v).ok = s.ok := rfl
@[simp] theorem State.setRxbuf_pass (s : State) (v : List Byte) : (s.setRxbuf v).pass = s.pass := rfl
@[simp] theorem State.setRxbuf_frm (s : State) (v : List Byte) : (s.setRxbuf v).frm = s.frm := rfl
@[simp] theorem State.setRxbuf_out (s : State) (v : List Byte) : (s.setRxbuf v).out = s.out := rfl
@[simp] theorem State.setRxbuf_rxbuf (s : State) (v : List Byte) : (s.setRxbuf v).rxbuf = v := rfl
@[simp] theorem State.setRxbuf_input (s : State) (v : List Byte) : (s.setRxbuf v).input = s.input := rfl

@[simp] theorem State.setStatus_params (s : State) (e : ErrCode) (ok pass : Bool) :
    (s.setStatus e ok pass).params = s.params :=
  rfl
@[simp] theorem State.setStatus_lrc (s : State) (e : ErrCode) (ok pass : Bool) :
    (s.setStatus e ok pass).lrc = s.lrc :=
  rfl
@[simp] theorem State.setStatus_crc (s : State) (e : ErrCode) (ok pass : Bool) :
    (s.setStatus e ok pass).crc = s.crc :=
  rfl
@[simp] theorem State.setStatus_err (s : State) (e : ErrCode) (ok pass : Bool) :
    (s.setStatus e ok pass).err = errCode e :=
  rfl
@[simp] theorem State.setStatus_ok (s : State) (e : ErrCode) (ok pass : Bool) : (s.setStatus e ok pass).ok = ok :=
  rfl
@[simp] theorem State.setStatus_pass (s : State) (e : ErrCode) (ok pass : Bool) :
    (s.setStatus e ok pass).pass = pass :=
  rfl
@[simp] theorem State.setStatus_frm (s : State) (e : ErrCode) (ok pass : Bool) :
    (s.setStatus e ok pass).frm = s.frm :=
  rfl
@[simp] theorem State.setStatus_out (s : State) (e : ErrCode) (ok pass : Bool) :
    (s.setStatus e ok pass).out = s.out :=
  rfl
@[simp] theorem State.setStatus_rxbuf (s : State) (e : ErrCode) (ok pass : Bool) :
    (s.setStatus e ok pass).rxbuf = s.rxbuf :=
  rfl
@[simp] theorem State.setStatus_input (s : State) (e : ErrCode) (ok pass : Bool) :
    (s.setStatus e ok pass).input = s.input :=
  rfl

@[simp] theorem State.succeed_params (s : State) : s.succeed.params = s.params := rfl
@[simp] theorem State.succeed_lrc (s : State) : s.succeed.lrc = s.lrc := rfl
@[simp] theorem State.succeed_crc (s : State) : s.succeed.crc = s.crc := rfl
@[simp] theorem State.succeed_err (s : State) : s.succeed.err = 0#4 := rfl
@[simp] theorem State.succeed_ok (s : State) : s.succeed.ok = true := rfl
@[simp] theorem State.succeed_pass (s : State) : s.succeed.pass = false := rfl
@[simp] theorem State.succeed_frm (s : State) : s.succeed.frm = s.frm := rfl
@[simp] theorem State.succeed_out (s : State) : s.succeed.out = s.out := rfl
@[simp] theorem State.succeed_rxbuf (s : State) : s.succeed.rxbuf = s.rxbuf := rfl
@[simp] theorem State.succeed_input (s : State) : s.succeed.input = s.input := rfl

@[simp] theorem State.passThrough_params (s : State) : s.passThrough.params = s.params := rfl
@[simp] theorem State.passThrough_lrc (s : State) : s.passThrough.lrc = s.lrc := rfl
@[simp] theorem State.passThrough_crc (s : State) : s.passThrough.crc = s.crc := rfl
@[simp] theorem State.passThrough_err (s : State) : s.passThrough.err = 0#4 := rfl
@[simp] theorem State.passThrough_ok (s : State) : s.passThrough.ok = false := rfl
@[simp] theorem State.passThrough_pass (s : State) : s.passThrough.pass = true := rfl
@[simp] theorem State.passThrough_frm (s : State) : s.passThrough.frm = s.frm := rfl
@[simp] theorem State.passThrough_out (s : State) : s.passThrough.out = s.out := rfl
@[simp] theorem State.passThrough_rxbuf (s : State) : s.passThrough.rxbuf = s.rxbuf := rfl
@[simp] theorem State.passThrough_input (s : State) : s.passThrough.input = s.input := rfl

@[simp] theorem State.raiseError_params (s : State) (e : ErrCode) : (s.raiseError e).params = s.params := rfl
@[simp] theorem State.raiseError_lrc (s : State) (e : ErrCode) : (s.raiseError e).lrc = s.lrc := rfl
@[simp] theorem State.raiseError_crc (s : State) (e : ErrCode) : (s.raiseError e).crc = s.crc := rfl
@[simp] theorem State.raiseError_err (s : State) (e : ErrCode) : (s.raiseError e).err = errCode e := rfl
@[simp] theorem State.raiseError_ok (s : State) (e : ErrCode) : (s.raiseError e).ok = false := rfl
@[simp] theorem State.raiseError_pass (s : State) (e : ErrCode) : (s.raiseError e).pass = false := rfl
@[simp] theorem State.raiseError_frm (s : State) (e : ErrCode) : (s.raiseError e).frm = s.frm := rfl
@[simp] theorem State.raiseError_out (s : State) (e : ErrCode) : (s.raiseError e).out = s.out := rfl
@[simp] theorem State.raiseError_rxbuf (s : State) (e : ErrCode) : (s.raiseError e).rxbuf = s.rxbuf := rfl
@[simp] theorem State.raiseError_input (s : State) (e : ErrCode) : (s.raiseError e).input = s.input := rfl

@[simp] theorem State.earlyError_params (s : State) (e : ErrCode) : (s.earlyError e).params = s.params := rfl
@[simp] theorem State.earlyError_lrc (s : State) (e : ErrCode) : (s.earlyError e).lrc = s.lrc := rfl
@[simp] theorem State.earlyError_crc (s : State) (e : ErrCode) : (s.earlyError e).crc = s.crc := rfl
@[simp] theorem State.earlyError_err (s : State) (e : ErrCode) : (s.earlyError e).err = errCode e := rfl
@[simp] theorem State.earlyError_ok (s : State) (e : ErrCode) : (s.earlyError e).ok = false := rfl
@[simp] theorem State.earlyError_pass (s : State) (e : ErrCode) : (s.earlyError e).pass = false := rfl
@[simp] theorem State.earlyError_frm (s : State) (e : ErrCode) : (s.earlyError e).frm = s.frm := rfl
@[simp] theorem State.earlyError_out (s : State) (e : ErrCode) : (s.earlyError e).out = s.out := rfl
@[simp] theorem State.earlyError_rxbuf (s : State) (e : ErrCode) : (s.earlyError e).rxbuf = s.rxbuf := rfl
@[simp] theorem State.earlyError_input (s : State) (e : ErrCode) : (s.earlyError e).input = s.input := rfl

@[simp] theorem State.resetWith_params (p : Params) : (State.resetWith p).params = p := rfl
@[simp] theorem State.resetWith_lrc (p : Params) : (State.resetWith p).lrc = 0x00#8 := rfl
@[simp] theorem State.resetWith_crc (p : Params) : (State.resetWith p).crc = crcInitValue := rfl
@[simp] theorem State.resetWith_err (p : Params) : (State.resetWith p).err = 0#4 := rfl
@[simp] theorem State.resetWith_ok (p : Params) : (State.resetWith p).ok = false := rfl
@[simp] theorem State.resetWith_pass (p : Params) : (State.resetWith p).pass = false := rfl
@[simp] theorem State.resetWith_frm (p : Params) : (State.resetWith p).frm = 0x00000000#32 := rfl
@[simp] theorem State.resetWith_out (p : Params) : (State.resetWith p).out = [] := rfl
@[simp] theorem State.resetWith_rxbuf (p : Params) : (State.resetWith p).rxbuf = [] := rfl
@[simp] theorem State.resetWith_input (p : Params) : (State.resetWith p).input = [] := rfl

@[simp] theorem State.applyReset_params (s : State) : s.applyReset.params = s.params := rfl
@[simp] theorem State.applyReset_lrc (s : State) : s.applyReset.lrc = 0x00#8 := rfl
@[simp] theorem State.applyReset_crc (s : State) : s.applyReset.crc = crcInitValue := rfl
@[simp] theorem State.applyReset_err (s : State) : s.applyReset.err = 0#4 := rfl
@[simp] theorem State.applyReset_ok (s : State) : s.applyReset.ok = false := rfl
@[simp] theorem State.applyReset_pass (s : State) : s.applyReset.pass = false := rfl
@[simp] theorem State.applyReset_frm (s : State) : s.applyReset.frm = 0x00000000#32 := rfl
@[simp] theorem State.applyReset_out (s : State) : s.applyReset.out = [] := rfl
@[simp] theorem State.applyReset_rxbuf (s : State) : s.applyReset.rxbuf = [] := rfl
@[simp] theorem State.applyReset_input (s : State) : s.applyReset.input = s.input := rfl

@[simp] theorem State.issue_params (s : State) (ev : HostEvent) : (s.issue ev).params = s.params := rfl
@[simp] theorem State.issue_lrc (s : State) (ev : HostEvent) : (s.issue ev).lrc = s.lrc := rfl
@[simp] theorem State.issue_crc (s : State) (ev : HostEvent) : (s.issue ev).crc = s.crc := rfl
@[simp] theorem State.issue_err (s : State) (ev : HostEvent) : (s.issue ev).err = s.err := rfl
@[simp] theorem State.issue_ok (s : State) (ev : HostEvent) : (s.issue ev).ok = s.ok := rfl
@[simp] theorem State.issue_pass (s : State) (ev : HostEvent) : (s.issue ev).pass = s.pass := rfl
@[simp] theorem State.issue_frm (s : State) (ev : HostEvent) : (s.issue ev).frm = s.frm := rfl
@[simp] theorem State.issue_out (s : State) (ev : HostEvent) : (s.issue ev).out = s.out := rfl
@[simp] theorem State.issue_rxbuf (s : State) (ev : HostEvent) : (s.issue ev).rxbuf = s.rxbuf := rfl
@[simp] theorem State.issue_input (s : State) (ev : HostEvent) : (s.issue ev).input = s.input ++ [ev] := rfl

@[simp] theorem State.placeNext_params (s : State) (cw : Word) (din : List Byte) :
    (s.placeNext cw din).params = s.params :=
  rfl
@[simp] theorem State.placeNext_lrc (s : State) (cw : Word) (din : List Byte) : (s.placeNext cw din).lrc = s.lrc :=
  rfl
@[simp] theorem State.placeNext_crc (s : State) (cw : Word) (din : List Byte) : (s.placeNext cw din).crc = s.crc :=
  rfl
@[simp] theorem State.placeNext_err (s : State) (cw : Word) (din : List Byte) : (s.placeNext cw din).err = s.err :=
  rfl
@[simp] theorem State.placeNext_ok (s : State) (cw : Word) (din : List Byte) : (s.placeNext cw din).ok = s.ok :=
  rfl
@[simp] theorem State.placeNext_pass (s : State) (cw : Word) (din : List Byte) : (s.placeNext cw din).pass = s.pass :=
  rfl
@[simp] theorem State.placeNext_frm (s : State) (cw : Word) (din : List Byte) : (s.placeNext cw din).frm = s.frm :=
  rfl
@[simp] theorem State.placeNext_out (s : State) (cw : Word) (din : List Byte) : (s.placeNext cw din).out = s.out :=
  rfl
@[simp] theorem State.placeNext_rxbuf (s : State) (cw : Word) (din : List Byte) :
    (s.placeNext cw din).rxbuf = s.rxbuf :=
  rfl
@[simp] theorem State.placeNext_input (s : State) (cw : Word) (din : List Byte) :
    (s.placeNext cw din).input = .command cw din :: s.input :=
  rfl

end Sys2Proof.Machine
end

