-- ==== Sys2Proof/Laws/Ops.lean ====
section
/-! SUPPORT. One lemma per shared operation that says once what it does: the folds, sequences of bytes, the end of a
decode command, taking an event, running a list of commands, and what each meaning can answer. -/

namespace Sys2Proof.Machine

/-! ### Folds -/

@[simp] theorem lrcFold_nil (a : Byte) : lrcFold a [] = a := rfl

@[simp] theorem lrcFold_cons (a b : Byte) (bytes : List Byte) :
    lrcFold a (b :: bytes) = lrcFold (a ^^^ b) bytes := rfl

theorem lrcFold_append (a : Byte) (xs ys : List Byte) :
    lrcFold a (xs ++ ys) = lrcFold (lrcFold a xs) ys := List.foldl_append

@[simp] theorem crcFold_nil (m : CrcMode) (c : Half) : crcFold m c [] = c := rfl

@[simp] theorem crcFold_cons (m : CrcMode) (c : Half) (b : Byte) (bytes : List Byte) :
    crcFold m c (b :: bytes) = crcFold m (crcStep m c b) bytes := rfl

theorem crcFold_append (m : CrcMode) (c : Half) (xs ys : List Byte) :
    crcFold m c (xs ++ ys) = crcFold m (crcFold m c xs) ys := List.foldl_append

@[simp] theorem crcFin_crcFin (m : CrcMode) (c : Half) : crcFin m (crcFin m c) = c := by
  cases m <;> simp [crcFin]

/-! ### Byte sequences -/

@[simp] theorem byteAt_cons_zero (b : Byte) (bytes : List Byte) : byteAt (b :: bytes) 0 = b := rfl

@[simp] theorem byteAt_cons_succ (b : Byte) (bytes : List Byte) (i : Nat) :
    byteAt (b :: bytes) (i + 1) = byteAt bytes i := rfl

theorem byteAt_append_length (xs : List Byte) (b : Byte) (ys : List Byte) :
    byteAt (xs ++ b :: ys) xs.length = b := by simp [byteAt]

theorem byteAt_of_lt (xs : List Byte) (i : Nat) (h : i < xs.length) : byteAt xs i = xs[i] := by
  simp [byteAt, h]

theorem slice_zero (xs : List Byte) (j : Nat) : slice xs 0 j = xs.take j := by simp [slice]

theorem slice_append_left (xs ys : List Byte) : slice (xs ++ ys) 0 xs.length = xs := by simp [slice]

/-- The slice between a front and a back of a sequence is what stands between them. -/
theorem slice_middle (front mid back : List Byte) (i j : Nat) (hi : i = front.length)
    (hj : j = front.length + mid.length) : slice (front ++ mid ++ back) i j = mid := by
  subst hi hj; simp [slice]

@[simp] theorem slice_length (xs : List Byte) (i j : Nat) :
    (slice xs i j).length = min (j - i) (xs.length - i) := by simp [slice]

theorem littleEndian_eq_append (lo hi : Byte) : littleEndian lo hi = hi ++ lo := by
  apply BitVec.eq_of_getLsbD_eq
  intro k hk
  simp only [littleEndian, BitVec.getLsbD_or, BitVec.getLsbD_setWidth, BitVec.getLsbD_shiftLeft,
    BitVec.getLsbD_append]
  by_cases h : k < 8
  · simp [h, hk]
  · have h1 : lo.getLsbD k = false := BitVec.getLsbD_of_ge lo k (by omega)
    simp only [h, h1, hk, decide_true, decide_false, Bool.and_false, Bool.false_or, Bool.not_false,
      Bool.true_and, Bool.and_true]
    simp; omega

/-! ### The outcome of a command -/

/-- Every outcome writes the three stored fields of `STATUS` and nothing else. -/
theorem setStatus_eq (s : State) (e : ErrCode) (ok pass : Bool) :
    s.setStatus e ok pass = { s with err := errCode e, ok := ok, pass := pass } := rfl

/-- What the end of a decode command leaves: `OUT` and `FRM` always written, the raw input and 0 where no frame was
found. -/
theorem finishDecode_eq (s : State) (din : List Byte) (r : Parsed) :
    s.finishDecode din r =
      match r with
      | .notFramed => { s with out := din, frm := 0#32, err := 0#4, ok := false, pass := true }
      | .bad e => { s with out := din, frm := 0#32, err := errCode e, ok := false, pass := false }
      | .frame payload fields =>
        { s with out := payload, frm := fields, err := 0#4, ok := true, pass := false } := by
  cases r <;> rfl

/-! ### The arms of exec -/

theorem exec_nop (s : State) : exec .nop s = execNop s := rfl

theorem exec_lrcInit (s : State) : exec .lrcInit s = execLrcInit s := rfl

theorem exec_lrcFeed (din : List Byte) (s : State) : exec (.lrcFeed din) s = execLrcFeed din s := rfl

theorem exec_lrcCalc (din : List Byte) (s : State) : exec (.lrcCalc din) s = execLrcCalc din s := rfl

theorem exec_lrcCheck (din : List Byte) (s : State) : exec (.lrcCheck din) s = execLrcCheck din s := rfl

theorem exec_crcInit (s : State) : exec .crcInit s = execCrcInit s := rfl

theorem exec_crcFeed (din : List Byte) (s : State) : exec (.crcFeed din) s = execCrcFeed din s := rfl

theorem exec_crcCalc (din : List Byte) (s : State) : exec (.crcCalc din) s = execCrcCalc din s := rfl

theorem exec_crcCheck (din : List Byte) (s : State) : exec (.crcCheck din) s = execCrcCheck din s := rfl

theorem exec_lrcEnc (din : List Byte) (s : State) : exec (.lrcEnc din) s = execLrcEnc din s := rfl

theorem exec_lrcDec (din : List Byte) (s : State) : exec (.lrcDec din) s = execLrcDec din s := rfl

theorem exec_crcEnc (cmd cls ident : Byte) (din : List Byte) (s : State) :
    exec (.crcEnc cmd cls ident din) s = execCrcEnc cmd cls ident din s := rfl

theorem exec_crcDec (din : List Byte) (s : State) : exec (.crcDec din) s = execCrcDec din s := rfl

theorem exec_rxClear (s : State) : exec .rxClear s = execRxClear s := rfl

theorem exec_rxAppend (din : List Byte) (s : State) : exec (.rxAppend din) s = execRxAppend din s := rfl

/-! ### What a meaning can answer -/

theorem execLrcCheck_cases {din : List Byte} {s t : State} (h : execLrcCheck din s = .next t) :
    (din = [] ∧ t = s.raiseError .tooShort) ∨
      (din ≠ [] ∧ t = s.succeed ∧ lrcOf (slice din 0 (din.length - 1)) = byteAt din (din.length - 1)) ∨
      (din ≠ [] ∧ t = s.raiseError .checksumMismatch ∧
        lrcOf (slice din 0 (din.length - 1)) ≠ byteAt din (din.length - 1)) := by
  simp only [execLrcCheck] at h
  split at h
  · rename_i hn
    exact .inl ⟨List.length_eq_zero_iff.mp (by omega), by cases h; rfl⟩
  · rename_i hn
    have hne : din ≠ [] := by rintro rfl; simp at hn
    split at h
    · rename_i he
      exact .inr (.inl ⟨hne, by cases h; rfl, he⟩)
    · rename_i he
      exact .inr (.inr ⟨hne, by cases h; rfl, he⟩)

theorem execCrcCheck_cases {din : List Byte} {s t : State} (h : execCrcCheck din s = .next t) :
    (din.length < 2 ∧ t = s.raiseError .tooShort) ∨
      (2 ≤ din.length ∧ t = s.succeed ∧ crc16 s.params.crcMode (slice din 0 (din.length - 2)) =
        littleEndian (byteAt din (din.length - 2)) (byteAt din (din.length - 1))) ∨
      (2 ≤ din.length ∧ t = s.raiseError .checksumMismatch ∧
        crc16 s.params.crcMode (slice din 0 (din.length - 2)) ≠
          littleEndian (byteAt din (din.length - 2)) (byteAt din (din.length - 1))) := by
  simp only [execCrcCheck] at h
  split at h
  · rename_i hn
    exact .inl ⟨hn, by cases h; rfl⟩
  · rename_i hn
    split at h
    · rename_i he
      exact .inr (.inl ⟨by omega, by cases h; rfl, he⟩)
    · rename_i he
      exact .inr (.inr ⟨by omega, by cases h; rfl, he⟩)

theorem execLrcEnc_cases {din : List Byte} {s t : State} (h : execLrcEnc din s = .next t) :
    (65535 < din.length ∧ t = s.raiseError .payloadTooLong) ∨
      (din.length ≤ 65535 ∧ t = (s.setOut (lrcFrame s.params din)).succeed) := by
  unfold execLrcEnc at h
  split at h
  · rename_i hn
    exact .inl ⟨hn, by cases h; rfl⟩
  · rename_i hn
    exact .inr ⟨Nat.le_of_not_gt hn, by cases h; rfl⟩

theorem execCrcEnc_cases {cmd cls ident : Byte} {din : List Byte} {s t : State}
    (h : execCrcEnc cmd cls ident din s = .next t) :
    (255 < din.length + s.params.lenBias.val ∧ t = s.raiseError .payloadTooLong) ∨
      (din.length + s.params.lenBias.val ≤ 255 ∧
        t = (s.setOut (crcFrame s.params cmd cls ident din)).succeed) := by
  simp only [execCrcEnc] at h
  split at h
  · rename_i hn
    exact .inl ⟨hn, by cases h; rfl⟩
  · rename_i hn
    exact .inr ⟨by omega, by cases h; rfl⟩

theorem execRxAppend_cases {din : List Byte} {s t : State} (h : execRxAppend din s = .next t) :
    (s.params.rxbufCap < s.rxbuf.length + din.length ∧ t = s.raiseError .rxOverflow) ∨
      (s.rxbuf.length + din.length ≤ s.params.rxbufCap ∧
        t = (s.setRxbuf (s.rxbuf ++ din)).succeed) := by
  simp only [execRxAppend] at h
  split at h
  · rename_i hn
    exact .inl ⟨hn, by cases h; rfl⟩
  · rename_i hn
    exact .inr ⟨by omega, by cases h; rfl⟩

/-! ### The same, forwards: which case holds decides the answer -/

theorem execLrcCheck_short (s : State) : execLrcCheck [] s = .next (s.raiseError .tooShort) := rfl

theorem execLrcCheck_match {din : List Byte} {s : State} (hn : 1 ≤ din.length)
    (h : lrcOf (slice din 0 (din.length - 1)) = byteAt din (din.length - 1)) :
    execLrcCheck din s = .next s.succeed :=
  (if_neg (Nat.not_lt.mpr hn)).trans (if_pos h)

theorem execLrcCheck_mismatch {din : List Byte} {s : State} (hn : 1 ≤ din.length)
    (h : lrcOf (slice din 0 (din.length - 1)) ≠ byteAt din (din.length - 1)) :
    execLrcCheck din s = .next (s.raiseError .checksumMismatch) :=
  (if_neg (Nat.not_lt.mpr hn)).trans (if_neg h)

theorem execCrcCheck_short {din : List Byte} {s : State} (hn : din.length < 2) :
    execCrcCheck din s = .next (s.raiseError .tooShort) := if_pos hn

theorem execCrcCheck_match {din : List Byte} {s : State} (hn : 2 ≤ din.length)
    (h : crc16 s.params.crcMode (slice din 0 (din.length - 2)) =
      littleEndian (byteAt din (din.length - 2)) (byteAt din (din.length - 1))) :
    execCrcCheck din s = .next s.succeed :=
  (if_neg (Nat.not_lt.mpr hn)).trans (if_pos h)

theorem execCrcCheck_mismatch {din : List Byte} {s : State} (hn : 2 ≤ din.length)
    (h : crc16 s.params.crcMode (slice din 0 (din.length - 2)) ≠
      littleEndian (byteAt din (din.length - 2)) (byteAt din (din.length - 1))) :
    execCrcCheck din s = .next (s.raiseError .checksumMismatch) :=
  (if_neg (Nat.not_lt.mpr hn)).trans (if_neg h)

theorem execLrcEnc_fits {din : List Byte} {s : State} (h : din.length ≤ lrcMaxPayload) :
    execLrcEnc din s = .next (s.setOut (lrcFrame s.params din)).succeed := if_neg (Nat.not_lt.mpr h)

theorem execLrcEnc_tooLong {din : List Byte} {s : State} (h : lrcMaxPayload < din.length) :
    execLrcEnc din s = .next (s.raiseError .payloadTooLong) := if_pos h

theorem execCrcEnc_fits {cmd cls ident : Byte} {din : List Byte} {s : State}
    (h : din.length + s.params.lenBias.val ≤ 255) :
    execCrcEnc cmd cls ident din s = .next (s.setOut (crcFrame s.params cmd cls ident din)).succeed :=
  if_neg (Nat.not_lt.mpr h)

theorem execCrcEnc_tooLong {cmd cls ident : Byte} {din : List Byte} {s : State}
    (h : 255 < din.length + s.params.lenBias.val) :
    execCrcEnc cmd cls ident din s = .next (s.raiseError .payloadTooLong) := if_pos h

theorem execRxAppend_fits {din : List Byte} {s : State} (h : s.rxbuf.length + din.length ≤ s.params.rxbufCap) :
    execRxAppend din s = .next (s.setRxbuf (s.rxbuf ++ din)).succeed := if_neg (Nat.not_lt.mpr h)

theorem execRxAppend_overflow {din : List Byte} {s : State} (h : s.params.rxbufCap < s.rxbuf.length + din.length) :
    execRxAppend din s = .next (s.raiseError .rxOverflow) := if_pos h

/-! ### Events and lists of commands -/

theorem takeEvent_nil {s : State} (h : s.input = []) : s.takeEvent = none := by
  simp [State.takeEvent, h]

theorem takeEvent_cons {s : State} {ev : HostEvent} {rest : List HostEvent} (h : s.input = ev :: rest) :
    s.takeEvent = some (ev, { s with input := rest }) := by
  simp [State.takeEvent, h]

@[simp] theorem execAll_nil (s : State) : execAll [] s = .next s := rfl

theorem execAll_cons_next {i : Instr} {rest : List Instr} {s t : State} (h : exec i s = .next t) :
    execAll (i :: rest) s = execAll rest t := by
  simp [execAll, h]

theorem execAll_append_next {front back : List Instr} {s t : State} (h : execAll front s = .next t) :
    execAll (front ++ back) s = execAll back t := by
  induction front generalizing s with
  | nil => cases h; rfl
  | cons i rest ih =>
    simp only [execAll, List.cons_append] at h ⊢
    split at h <;> first | exact ih h | cases h

end Sys2Proof.Machine
end

