-- ==== Sys2Proof/Laws/Frames.lean ====
section
/-! SUPPORT. The frames and their parsers: lengths, the two byte orders as numbers, and what each parser answers on input
of a frame's form. -/

namespace Sys2Proof.Machine

@[simp] theorem lrcFrame_length (p : Params) (payload : List Byte) :
    (lrcFrame p payload).length = payload.length + 5 := by simp [lrcFrame, lrcFrameBody]

@[simp] theorem crcFrame_length (p : Params) (cmd cls ident : Byte) (payload : List Byte) :
    (crcFrame p cmd cls ident payload).length = payload.length + 6 := by
  simp [crcFrame, crcFrameBody, lowFirst]

/-- CRC_ENC's test on the payload is `|DIN| ≤ CRC_MAX_PAYLOAD` (R12, R156). -/
theorem fits_iff_crcMaxPayload (p : Params) (payload : List Byte) :
    payload.length + p.lenBias.val ≤ 255 ↔ payload.length ≤ crcMaxPayload p := by
  have := p.lenBias.isLt
  unfold crcMaxPayload
  omega

/-- The two bytes of a 16-bit length are its quotient and remainder by 256. -/
theorem hi8_lo8_ofNat (n : Nat) (h : n ≤ 65535) :
    hi8 (BitVec.ofNat 16 n) = BitVec.ofNat 8 (n / 256) ∧ lo8 (BitVec.ofNat 16 n) = BitVec.ofNat 8 (n % 256) := by
  constructor <;> apply BitVec.eq_of_toNat_eq <;>
    simp [hi8, lo8, BitVec.extractLsb'_toNat, Nat.shiftRight_eq_div_pow]
  omega

/-- Reading a 16-bit LEN big-endian gives back the length it was written from. -/
theorem bigEndianLen_hi8_lo8 (n : Nat) (h : n ≤ 65535) :
    bigEndianLen (hi8 (BitVec.ofNat 16 n)) (lo8 (BitVec.ofNat 16 n)) = n := by
  rw [(hi8_lo8_ofNat n h).1, (hi8_lo8_ofNat n h).2]
  simp [bigEndianLen]
  omega

/-- The bytes of a 16-bit value, low byte first, as numbers. -/
theorem lowFirst_eq (v : Half) :
    lowFirst v = [BitVec.ofNat 8 (v.toNat % 256), BitVec.ofNat 8 (v.toNat / 256)] := by
  simp only [lowFirst, lo8, hi8, List.cons.injEq, and_true]
  constructor <;> apply BitVec.eq_of_toNat_eq
  · simp [BitVec.extractLsb'_toNat]
  · have := v.isLt
    simp [BitVec.extractLsb'_toNat, Nat.shiftRight_eq_div_pow]

theorem littleEndian_toNat (lo hi : Byte) : (littleEndian lo hi).toNat = 256 * hi.toNat + lo.toNat := by
  rw [littleEndian_eq_append, BitVec.toNat_append, ← Nat.shiftLeft_add_eq_or_of_lt lo.isLt, Nat.shiftLeft_eq]
  omega

/-- Reading a 16-bit value low byte first gives back the value it was written from. -/
@[simp] theorem littleEndian_lo8_hi8 (v : Half) : littleEndian (lo8 v) (hi8 v) = v := by
  apply BitVec.eq_of_toNat_eq
  rw [littleEndian_toNat]
  have := v.isLt
  simp [lo8, hi8, BitVec.extractLsb'_toNat, Nat.shiftRight_eq_div_pow]
  omega

/-- Data and a check byte: the slice before the last byte and the last byte. -/
theorem slice_byteAt_snoc (xs : List Byte) (x : Byte) :
    slice (xs ++ [x]) 0 ((xs ++ [x]).length - 1) = xs ∧ byteAt (xs ++ [x]) ((xs ++ [x]).length - 1) = x := by
  simp [slice, byteAt]

/-- Data and two check bytes: the slice before them and the two bytes. -/
theorem slice_byteAt_snoc_two (xs : List Byte) (a b : Byte) :
    slice (xs ++ [a, b]) 0 ((xs ++ [a, b]).length - 2) = xs ∧
      byteAt (xs ++ [a, b]) ((xs ++ [a, b]).length - 2) = a ∧
      byteAt (xs ++ [a, b]) ((xs ++ [a, b]).length - 1) = b := by
  simp [slice, byteAt]

/-- What the LRC parser answers on input of an LRC frame's form whose LEN agrees with its length. -/
theorem parseLrcFrame_framed (p : Params) (hi lo etx x : Byte) (payload : List Byte)
    (hl : payload.length = hi.toNat * 256 + lo.toNat) :
    parseLrcFrame p (p.stxByte :: hi :: lo :: payload ++ [etx, x]) =
      if etx ≠ p.etxByte then .bad .etxMismatch
      else if lrcOf (p.stxByte :: hi :: lo :: payload ++ [etx]) ≠ x then .bad .checksumMismatch
      else .frame payload (BitVec.ofNat 32 payload.length) := by
  unfold parseLrcFrame
  have e0 : byteAt (p.stxByte :: hi :: lo :: payload ++ [etx, x]) 0 = p.stxByte := rfl
  have e1 : byteAt (p.stxByte :: hi :: lo :: payload ++ [etx, x]) 1 = hi := rfl
  have e2 : byteAt (p.stxByte :: hi :: lo :: payload ++ [etx, x]) 2 = lo := rfl
  have e3 : byteAt (p.stxByte :: hi :: lo :: payload ++ [etx, x]) (payload.length + 3) = etx := by simp [byteAt]
  have e4 : byteAt (p.stxByte :: hi :: lo :: payload ++ [etx, x]) (payload.length + 4) = x := by simp [byteAt]
  have e5 : slice (p.stxByte :: hi :: lo :: payload ++ [etx, x]) 0 (payload.length + 4) =
      p.stxByte :: hi :: lo :: payload ++ [etx] := by simp [slice, List.take_append]
  have e6 : slice (p.stxByte :: hi :: lo :: payload ++ [etx, x]) 3 (payload.length + 3) = payload := by
    simp [slice]
  have eL : (p.stxByte :: hi :: lo :: payload ++ [etx, x]).length = payload.length + 5 := by simp
  simp only [e0, e1, e2, bigEndianLen, ← hl, e3, e4, e5, e6, eL]
  rw [if_neg (by simp), if_neg (by simp)]

/-- What the CRC parser answers on input of at least six bytes. -/
theorem parseCrcFrame_framed (p : Params) (cmd len cls ident lo hi : Byte) (payload : List Byte) :
    parseCrcFrame p (cmd :: len :: cls :: ident :: payload ++ [lo, hi]) =
      if len.toNat < p.lenBias.val ∨ payload.length + 6 ≠ len.toNat - p.lenBias.val + 6 then .bad .lengthMismatch
      else if crc16 p.crcMode (cmd :: len :: cls :: ident :: payload) ≠ littleEndian lo hi then
        .bad .checksumMismatch
      else .frame payload (packBytes cmd len cls ident) := by
  unfold parseCrcFrame
  have eL : (cmd :: len :: cls :: ident :: payload ++ [lo, hi]).length = payload.length + 6 := by simp
  have hc := slice_byteAt_snoc_two (cmd :: len :: cls :: ident :: payload) lo hi
  have e6 : slice (cmd :: len :: cls :: ident :: payload ++ [lo, hi]) 4 (payload.length + 6 - 2) = payload := by
    simp [slice]
  simp only [hc.1, hc.2.1, hc.2.2]
  simp only [eL, e6]
  rw [if_neg (by omega)]
  rfl

end Sys2Proof.Machine
end

