-- ==== Sys2Proof/Laws/PerInstr.lean ====
section
/-! SUPPORT. The families of statements proved for every constructor of `Instr`. `EncodeShape`: the encoding of a command
has its row's opcode, carries its operand, has zero reserved bits in formats N and D, and an empty operand in format N
(30_encoding.md R71 to R74, R76). -/

namespace Sys2Proof.Laws

/-- The encoding of `i` has the form its format gives it. -/
def EncodeShape.Statement (i : Instr) : Prop :=
  opField (encode i).1 = i.op.code ∧ (encode i).2 = i.din ∧
    (i.op.format ≠ .e → reservedField (encode i).1 = 0#24) ∧ (i.op.format = .n → (encode i).2 = [])

theorem EncodeShape.nop : EncodeShape.Statement .nop :=
  ⟨opField_plainWord _, rfl, fun _ => reservedField_plainWord _, fun _ => rfl⟩

theorem EncodeShape.lrcInit : EncodeShape.Statement .lrcInit :=
  ⟨opField_plainWord _, rfl, fun _ => reservedField_plainWord _, fun _ => rfl⟩

theorem EncodeShape.lrcFeed (din : List Byte) : EncodeShape.Statement (.lrcFeed din) :=
  ⟨opField_plainWord _, rfl, fun _ => reservedField_plainWord _, nofun⟩

theorem EncodeShape.lrcCalc (din : List Byte) : EncodeShape.Statement (.lrcCalc din) :=
  ⟨opField_plainWord _, rfl, fun _ => reservedField_plainWord _, nofun⟩

theorem EncodeShape.lrcCheck (din : List Byte) : EncodeShape.Statement (.lrcCheck din) :=
  ⟨opField_plainWord _, rfl, fun _ => reservedField_plainWord _, nofun⟩

theorem EncodeShape.crcInit : EncodeShape.Statement .crcInit :=
  ⟨opField_plainWord _, rfl, fun _ => reservedField_plainWord _, fun _ => rfl⟩

theorem EncodeShape.crcFeed (din : List Byte) : EncodeShape.Statement (.crcFeed din) :=
  ⟨opField_plainWord _, rfl, fun _ => reservedField_plainWord _, nofun⟩

theorem EncodeShape.crcCalc (din : List Byte) : EncodeShape.Statement (.crcCalc din) :=
  ⟨opField_plainWord _, rfl, fun _ => reservedField_plainWord _, nofun⟩

theorem EncodeShape.crcCheck (din : List Byte) : EncodeShape.Statement (.crcCheck din) :=
  ⟨opField_plainWord _, rfl, fun _ => reservedField_plainWord _, nofun⟩

theorem EncodeShape.lrcEnc (din : List Byte) : EncodeShape.Statement (.lrcEnc din) :=
  ⟨opField_plainWord _, rfl, fun _ => reservedField_plainWord _, nofun⟩

theorem EncodeShape.lrcDec (din : List Byte) : EncodeShape.Statement (.lrcDec din) :=
  ⟨opField_plainWord _, rfl, fun _ => reservedField_plainWord _, nofun⟩

theorem EncodeShape.crcEnc (cmd cls ident : Byte) (din : List Byte) :
    EncodeShape.Statement (.crcEnc cmd cls ident din) :=
  ⟨opField_append ident cls cmd _, rfl, fun h => absurd rfl h, nofun⟩

theorem EncodeShape.crcDec (din : List Byte) : EncodeShape.Statement (.crcDec din) :=
  ⟨opField_plainWord _, rfl, fun _ => reservedField_plainWord _, nofun⟩

theorem EncodeShape.rxClear : EncodeShape.Statement .rxClear :=
  ⟨opField_plainWord _, rfl, fun _ => reservedField_plainWord _, fun _ => rfl⟩

theorem EncodeShape.rxAppend (din : List Byte) : EncodeShape.Statement (.rxAppend din) :=
  ⟨opField_plainWord _, rfl, fun _ => reservedField_plainWord _, nofun⟩

end Sys2Proof.Laws
end

