-- ==== Sys2Proof/Tests/Slice0.lean ====
section
/-! SUPPORT. Tests of the model. V<n>, W<n> and P<n> are the vectors of spec/95_test_vectors.md: expected values are
taken from there, and decode words from the opcode map (30_encoding.md R76). The last part is one witness for the
hypotheses of each statement that has any. -/

namespace Sys2Proof.Tests

open Sys2Proof Sys2Proof.Machine

/-- The next state that an outcome answers. -/
def answer (o : Host.Outcome State Fault Refusal) : Option State :=
  match o with
  | .next t => some t
  | .fault _ => none
  | .refused _ => none

/-- `STATUS` after one step on one command. -/
def statusAfter (s : State) (cw : Word) (din : List Byte) : Option Half :=
  (answer (step { s with input := [.command cw din] })).map State.statusWord

/-- The error of a decode, if it fails. -/
def decodeError (p : Params) (cw : Word) (din : List Byte) : Option ErrCode :=
  match decode p cw din with
  | .ok _ => none
  | .error e => some e

/-- A reset block in mode `FALSE`. -/
def resetFalse : State := State.resetWith { Params.default with crcMode := .ccittFalse }

/-- The smallest legal bounds: `DIN_MAX` 6 and `RXBUF_CAP` 15. -/
def tight : Params := { Params.default with dinMax := 6, rxbufCap := 15 }

/-- The 8-byte reply of W7. -/
def reply8 : List Byte := [0x04#8, 0x01#8, 0x03#8, 0x00#8, 0x6F#8, 0x00#8, 0x1D#8, 0xCB#8]

/-- The 15-byte reply of W6. -/
def reply15 : List Byte :=
  [0x0B#8, 0x01#8, 0x03#8, 0x00#8, 0x05#8, 0x06#8, 0x00#8, 0x08#8, 0x8D#8, 0x69#8, 0x5D#8, 0xF1#8, 0x00#8, 0xE2#8,
    0x4E#8]

/-- The payload of the hunt command (V70). -/
def huntPayload : List Byte := [0x00#8, 0x00#8, 0x02#8, 0x11#8, 0x03#8, 0x01#8, 0x01#8, 0x14#8, 0x00#8]

/-- The frame of V70. -/
def huntFrame : List Byte := [0x80#8, 0x0B#8, 0x01#8, 0x03#8] ++ huntPayload ++ [0xC9#8, 0x7D#8]

/-! ### Well-formedness -/

theorem test_wellFormed_operand_at_limit :
    (Instr.lrcFeed [0#8, 0#8, 0#8, 0#8, 0#8, 0#8]).wellFormed tight = true := by decide

theorem test_wellFormed_refuses_long_operand :
    (Instr.lrcFeed [0#8, 0#8, 0#8, 0#8, 0#8, 0#8, 0#8]).wellFormed tight = false := by decide

theorem test_params_wf_refuses_short_dinMax : ({ Params.default with dinMax := 5 } : Params).wf = false := by decide

theorem test_params_wf_refuses_small_rxbufCap : ({ Params.default with rxbufCap := 14 } : Params).wf = false := by decide

/-! ### Decoding: the words of R76 -/

theorem test_decode_nop : decodeTableWord 32 0x00000000 = some .nop := by decide
theorem test_decode_lrcInit : decodeTableWord 32 0x00000001 = some .lrcInit := by decide
theorem test_decode_lrcFeed : decode Params.default 0x00000002#32 [0x01#8] = .ok (.lrcFeed [0x01#8]) := by rfl
theorem test_decode_lrcCalc : decode Params.default 0x00000003#32 [0x01#8] = .ok (.lrcCalc [0x01#8]) := by rfl
theorem test_decode_lrcCheck : decode Params.default 0x00000004#32 [0x5A#8] = .ok (.lrcCheck [0x5A#8]) := by rfl
theorem test_decode_crcInit : decodeTableWord 32 0x00000008 = some .crcInit := by decide
theorem test_decode_crcFeed : decode Params.default 0x00000009#32 [0x80#8] = .ok (.crcFeed [0x80#8]) := by rfl
theorem test_decode_crcCalc : decode Params.default 0x0000000A#32 [0xFF#8] = .ok (.crcCalc [0xFF#8]) := by rfl
theorem test_decode_crcCheck : decode Params.default 0x0000000B#32 [] = .ok (.crcCheck []) := by rfl
theorem test_decode_lrcEnc : decode Params.default 0x00000010#32 [0xAA#8] = .ok (.lrcEnc [0xAA#8]) := by rfl
theorem test_decode_lrcDec : decode Params.default 0x00000011#32 [0x90#8, 0#8] = .ok (.lrcDec [0x90#8, 0#8]) := by rfl
theorem test_decode_crcEnc : decodeTableWord 32 0x03018012 = some (.crcEnc 0x80#8 0x01#8 0x03#8 []) := by decide
theorem test_decode_crcDec : decode Params.default 0x00000013#32 [] = .ok (.crcDec []) := by rfl
theorem test_decode_rxClear : decodeTableWord 32 0x00000018 = some .rxClear := by decide
theorem test_decode_rxAppend : decode Params.default 0x00000019#32 [0x01#8] = .ok (.rxAppend [0x01#8]) := by rfl

theorem test_decode_operand_bits : decodeTableWord 48 0xBBAA00000019 = some (.rxAppend [0xAA#8, 0xBB#8]) := by decide

theorem test_withFetchWord_runs_the_word :
    (answer (step (State.reset.withFetchWord 32 0x02011012))).map State.out =
      (answer (exec (.crcEnc 0x10#8 0x01#8 0x02#8 []) State.reset)).map State.out := by decide +kernel

/-! ### The assembler's text (R91), from P1 and with comments -/

theorem test_assemble_crcEnc :
    assembleLine (asmText (.crcEnc 0x80#8 0x01#8 0x03#8 huntPayload)) = some [(0x03018012#32, huntPayload)] := by
  decide +kernel

theorem test_assemble_nop_with_comment :
    assembleLine ['N', 'O', 'P', ' ', ';', ' ', 'x'] = some [(0x00000000#32, [])] := by decide +kernel

/-! ### One step of each command -/

/-- V118: a failed command, then NOP; the buffer still shows as complete. -/
theorem test_nop : statusAfter { State.reset with err := 0x1#4, rxbuf := reply8 } 0x00000000#32 [] = some 0x00D0#16 := by
  decide +kernel

/-- V8. -/
theorem test_lrcInit : (answer (exec .lrcInit { State.reset with lrc := 0x5A#8 })).map State.lrc = some 0x00#8 := by
  decide

/-- V6. -/
theorem test_lrcFeed : (answer (exec (.lrcFeed [0x01#8, 0x02#8]) State.reset)).map State.lrc = some 0x03#8 := by decide

/-- V9. -/
theorem test_lrcFeed_empty :
    (answer (exec (.lrcFeed []) { State.reset with lrc := 0x5A#8 })).map State.lrc = some 0x5A#8 := by decide

/-- V4. -/
theorem test_lrcCalc :
    (answer (exec (.lrcCalc [0x80#8, 0x0A#8, 0x01#8, 0x03#8]) State.reset)).map (fun t => (t.lrc, t.out)) =
      some (0x88#8, [0x88#8]) := by decide

/-- V14. -/
theorem test_lrcCheck_match : statusAfter State.reset 0x00000004#32 [0x02#8, 0#8, 0#8, 0x03#8, 0x01#8] = some 0x0010#16 := by
  decide

/-- V15. -/
theorem test_lrcCheck_mismatch :
    statusAfter State.reset 0x00000004#32 [0x02#8, 0#8, 0#8, 0x03#8, 0#8] = some 0x0001#16 := by decide

/-- V28. -/
theorem test_crcInit :
    (answer (exec .crcInit { State.reset with crc := 0x0763#16 })).map (fun t => (t.crc, t.crcout)) =
      some (0xFFFF#16, 0x0000#16) := by decide

/-- V22. -/
theorem test_crcFeed_x25 :
    (answer (exec (.crcFeed [0x80#8, 0x0A#8, 0x01#8, 0x03#8]) State.reset)).map (fun t => (t.crc, t.crcout)) =
      some (0x7676#16, 0x8989#16) := by decide +kernel

/-- V25. -/
theorem test_crcFeed_false :
    (answer (exec (.crcFeed [0x80#8, 0x0A#8, 0x01#8, 0x03#8]) resetFalse)).map State.crc = some 0x9D6B#16 := by
  decide +kernel

/-- The row [01] of section 2.2, mode `X25`. -/
theorem test_crcCalc_x25 :
    (answer (exec (.crcCalc [0x01#8]) State.reset)).map (fun t => (t.crc, t.out)) =
      some (0x1E0E#16, [0xF1#8, 0xE1#8]) := by decide +kernel

/-- The row [01] of section 2.2, mode `FALSE`. -/
theorem test_crcCalc_false :
    (answer (exec (.crcCalc [0x01#8]) resetFalse)).map (fun t => (t.crc, t.out)) =
      some (0xF1D1#16, [0xD1#8, 0xF1#8]) := by decide +kernel

/-- P1, step 6, with the right last byte. -/
theorem test_crcCheck_match : statusAfter State.reset 0x0000000B#32 huntFrame = some 0x0010#16 := by decide +kernel

/-- V32. -/
theorem test_crcCheck_short : statusAfter State.reset 0x0000000B#32 [0x00#8] = some 0x0005#16 := by decide +kernel

/-- V42: STX and ETX in the payload. -/
theorem test_lrcEnc :
    (answer (exec (.lrcEnc [0x02#8, 0x03#8]) State.reset)).map State.out =
      some [0x02#8, 0x00#8, 0x02#8, 0x02#8, 0x03#8, 0x03#8, 0x02#8] := by decide

/-- V56. -/
theorem test_lrcDec :
    (answer (exec (.lrcDec [0x02#8, 0x00#8, 0x01#8, 0xAA#8, 0x03#8, 0xAA#8]) State.reset)).map
      (fun t => (t.out, t.frm)) = some ([0xAA#8], 0x00000001#32) := by decide

/-- V61: the wrong ETX is reported, not the wrong LRC. -/
theorem test_lrcDec_etx_first :
    statusAfter State.reset 0x00000011#32 [0x02#8, 0x00#8, 0x01#8, 0xAA#8, 0x04#8, 0xAB#8] = some 0x0003#16 := by decide

/-- V70. -/
theorem test_crcEnc :
    (answer (exec (.crcEnc 0x80#8 0x01#8 0x03#8 huntPayload) State.reset)).map State.out = some huntFrame := by
  decide +kernel

/-- V71, the fixture of DOC0. -/
theorem test_crcEnc_bias_one :
    (answer (exec (.crcEnc 0x80#8 0x01#8 0x03#8 huntPayload)
      (State.resetWith { Params.default with lenBias := 1 }))).map State.out =
      some ([0x80#8, 0x0A#8, 0x01#8, 0x03#8] ++ huntPayload ++ [0x9C#8, 0xF8#8]) := by decide +kernel

/-- V90. -/
theorem test_crcDec :
    (answer (exec (.crcDec huntFrame) State.reset)).map (fun t => (t.out, t.frm)) =
      some (huntPayload, 0x03010B80#32) := by decide +kernel

/-- V93: LEN below `LEN_BIAS`. -/
theorem test_crcDec_short_len :
    statusAfter State.reset 0x00000013#32 [0x00#8, 0x01#8, 0x00#8, 0x00#8, 0x66#8, 0x49#8] = some 0x0002#16 := by
  decide +kernel

/-- V105. -/
theorem test_rxClear :
    (answer (exec .rxClear { State.reset with rxbuf := [0x04#8, 0x01#8] })).map State.rxbuf = some [] := by decide

/-- V100: the ACK sentinel, complete by tier 2. -/
theorem test_rxAppend_ack : statusAfter State.reset 0x00000019#32 [0x01#8] = some 0x0150#16 := by decide

/-- V107: the overflow keeps the buffer and its completeness. -/
theorem test_rxAppend_overflow :
    (answer (exec (.rxAppend [0#8, 0#8])
      { State.resetWith { Params.default with rxbufCap := 16 } with rxbuf := reply15 })).map
      (fun t => (t.rxbuf, t.statusWord)) = some (reply15, 0x00C6#16) := by decide +kernel

/-! ### Early errors and reset -/

/-- V110. -/
theorem test_unassigned_opcode : statusAfter State.reset 0x00000005#32 [] = some 0x0007#16 := by decide

/-- V112: the reserved field is set, and nothing is fed. -/
theorem test_reserved_field :
    (answer (step { State.reset with input := [.command 0x00000102#32 [0x01#8]] })).map
      (fun t => (t.lrc, t.statusWord)) = some (0x00#8, 0x0007#16) := by decide

/-- V113. -/
theorem test_operand_in_format_n : statusAfter State.reset 0x00000000#32 [0x00#8] = some 0x0007#16 := by decide

/-- V116, with `DIN_MAX` 6: `OUT` is not written. -/
theorem test_operand_too_long :
    (answer (step { State.resetWith tight with input := [.command 0x00000011#32 (List.replicate 7 0x00#8)] })).map
      (fun t => (t.out, t.statusWord)) = some ([], 0x0008#16) := by decide

/-- V119. -/
theorem test_rst :
    answer (step { State.reset with lrc := 0x5A#8, crc := 0#16, frm := 5#32, out := [1#8], rxbuf := [1#8], input := [.rst] })
      = some State.reset := by decide

/-- The ACK row and the row before it of section 2.6. -/
theorem test_fic_ack_led : fic [0x01#8, 0x01#8] = ⟨false, 0#2⟩ ∧ fic [0x01#8, 0x04#8, 0x01#8, 0x03#8, 0x00#8] = ⟨true, 3#2⟩ := by
  decide

/-! ### Witnesses: for each statement with hypotheses, states and operands that meet them, at the bounds they name -/

/-- A block with the smallest bounds, part-way through some work: a failed command, a full buffer, more to do. -/
def busy : State :=
  { State.resetWith tight with
    lrc := 0x5A#8, crc := 0x0763#16, err := 0x1#4, frm := 0x00000001#32, out := [0xAA#8], rxbuf := reply15,
    input := [.command 0x00000019#32 [0x01#8], .rst] }

/-- A short LRC frame (V56). -/
def lrcFrameAA : List Byte := [0x02#8, 0x00#8, 0x01#8, 0xAA#8, 0x03#8, 0xAA#8]

/-- The next state of one command on a state, for the witnesses below. -/
def after (i : Instr) (s : State) : State := (answer (exec i s)).getD s

theorem witness_DecodeOfEncodeIsTheCommand :
    (Instr.crcEnc 0xFF#8 0x00#8 0x80#8 (List.replicate 6 0x55#8)).wellFormed tight = true := by decide

theorem witness_DecodedWordIsItsEncoding :
    decode tight 0xFF008012#32 (List.replicate 6 0x55#8) =
      .ok (.crcEnc 0x80#8 0x00#8 0xFF#8 (List.replicate 6 0x55#8)) := by rfl

/-- Every end of R78's ranges is unassigned, and the opcodes beside them are not. -/
theorem witness_DecodeErrorsInListedOrder_unassigned :
    (∀ op ∈ [0x05, 0x07, 0x0C, 0x0F, 0x14, 0x17, 0x1A, 0xFF],
      (5 ≤ op ∧ op ≤ 7) ∨ (0x0C ≤ op ∧ op ≤ 0x0F) ∨ (0x14 ≤ op ∧ op ≤ 0x17) ∨ 0x1A ≤ op) ∧
    (∀ op ∈ [0x05, 0x07, 0x0C, 0x0F, 0x14, 0x17, 0x1A, 0xFF],
      decodeError tight (BitVec.ofNat 32 op) [] = some .illegalOp) ∧
    ∀ op ∈ [0x04, 0x08, 0x0B, 0x10, 0x13, 0x18, 0x19], decodeError tight (BitVec.ofNat 32 op) [] = none := by decide

theorem witness_DecodeErrorsInListedOrder_reserved :
    ((0x00000100#32).toNat % 256 ≠ 0x12 ∧ (0x00000100#32).toNat / 256 ≠ 0) ∧
      ((0x80000019#32).toNat % 256 ≠ 0x12 ∧ (0x80000019#32).toNat / 256 ≠ 0) ∧
      decodeError tight 0x00000100#32 [] = some .illegalOp ∧ decodeError tight 0x80000019#32 [] = some .illegalOp := by
  decide

theorem witness_DecodeErrorsInListedOrder_operand :
    (∀ op ∈ [0x00, 0x01, 0x08, 0x18], decodeError tight (BitVec.ofNat 32 op) [0x00#8] = some .illegalOp) ∧
    decodeError tight 0x00000002#32 (List.replicate 7 0#8) = some .operandTooLong ∧
    decodeError tight 0x00000002#32 (List.replicate 6 0#8) = none ∧
    decodeError tight 0x00000105#32 (List.replicate 7 0#8) = some .illegalOp := by decide

theorem witness_UnassignedOpcodeWritesStatusOnly :
    (0xFFFFFF1A#32).toNat % 256 ∉
        [0x00, 0x01, 0x02, 0x03, 0x04, 0x08, 0x09, 0x0A, 0x0B, 0x10, 0x11, 0x12, 0x13, 0x18, 0x19] := by decide

theorem witness_PseudoInstructionEffects :
    reply15.length ≤ busy.params.rxbufCap ∧ busy.params.rxbufCap < (reply15 ++ [0x00#8]).length := by decide

theorem witness_StepRunsTheDecodedCommand :
    (busy.input = .command 0x00000019#32 [0x01#8] :: [.rst] ∧
        decode busy.params 0x00000019#32 [0x01#8] = .ok (.rxAppend [0x01#8])) ∧
      { busy with input := [.command 0x00000005#32 []] }.input = .command 0x00000005#32 [] :: [] ∧
      decode busy.params 0x00000005#32 [] = .error .illegalOp := ⟨⟨rfl, rfl⟩, rfl, rfl⟩

theorem witness_EarlyErrorsWriteStatusOnly :
    decode busy.params 0x00000005#32 [] = .error .illegalOp ∧
      decode busy.params 0x00000011#32 (List.replicate 7 0#8) = .error .operandTooLong := ⟨rfl, rfl⟩

theorem witness_ResetSignalRestoresEveryElement : { busy with input := [.rst, .rst] }.input = .rst :: [.rst] := by decide

theorem witness_PowerOnStateIsTheResetState :
    { busy with params := Params.default, input := [.rst] }.params = Params.default ∧
      { busy with params := Params.default, input := [.rst] }.input = [.rst] := by decide

theorem witness_IdleBlockHoldsItsState : { busy with input := [] }.input = [] := by decide

theorem witness_ResetMeetsTheInvariant : tight.wf = true := by decide

theorem busy_inv : Inv busy := by constructor <;> decide

theorem witness_EveryStepKeepsTheInvariant :
    Inv busy ∧ step busy = .next { busy with input := [.rst], err := 0x6#4 } := ⟨busy_inv, rfl⟩

theorem witness_RunsFromTheInvariantAreSafe : Inv { busy with err := 0#4, pass := true, rxbuf := [] } := by
  constructor <;> decide

theorem witness_ParametersNeverChange :
    Sys2Proof.core.run 2 busy = .next (State.resetWith tight) := rfl

theorem witness_HostReadsShowTheWholeState :
    busy.params = busy.params ∧ busy.input = busy.input ∧ ∀ r : HostReg, hostRead r busy = hostRead r busy :=
  ⟨rfl, rfl, fun _ => rfl⟩

/-- One command of each clause, and the two clauses that need a failure. -/
theorem witness_CommandsWriteOnlyTheirRow :
    exec .rxClear busy = .next { busy with rxbuf := [], err := 0#4, ok := true } ∧
      Op.rxClear ∉ [.lrcInit, .lrcFeed, .lrcCalc] ∧ Op.rxClear ∉ [.crcInit, .crcFeed, .crcCalc] ∧
      Op.rxClear ∉ [.lrcDec, .crcDec] ∧ Op.rxClear ∉ [.lrcCalc, .crcCalc, .lrcEnc, .lrcDec, .crcEnc, .crcDec] ∧
      Op.nop ∉ [.rxClear, .rxAppend] ∧
      exec (.crcEnc 1#8 2#8 3#8 [0x00#8]) { busy with params := { tight with lenBias := 255 } } =
        .next { busy with params := { tight with lenBias := 255 }, err := 0x4#4 } ∧
      Op.crcEnc ∈ [.lrcEnc, .crcEnc] ∧
      exec (.rxAppend [0x00#8]) busy = .next { busy with err := 0x6#4 } := by
  refine ⟨rfl, ?_, ?_, ?_, ?_, ?_, rfl, ?_, rfl⟩ <;> decide

theorem witness_RepeatedCommandsAreIdempotent :
    (0x00000018#32).toNat % 256 ∉ [0x02, 0x09, 0x19] ∧
      runCommand 0x00000018#32 [] busy = .next { busy with rxbuf := [], err := 0#4, ok := true } := ⟨by decide, rfl⟩

theorem witness_NopChangesStatusOnly :
    ((0x00000100#32).toNat % 256 = 0 ∧ 0x00000100#32 ≠ 0x00000000#32) ∧
      ((0x00000000#32).toNat % 256 = 0 ∧ [0x00#8] ≠ ([] : List Byte)) := by decide

theorem witness_LrcFunctionLaws_perm : [0x01#8, 0x02#8, 0x02#8].Perm [0x02#8, 0x01#8, 0x02#8] := by decide

/-- The two ends of the bit range, and two flips that cancel. -/
theorem witness_LrcFunctionLaws_flips :
    0 < 8 ∧ 7 < 8 ∧ [true, false, true].length = [0x01#8, 0x02#8, 0x03#8].length ∧ [true, false, true].count true % 2 = 0 := by
  decide

/-- The bound on the operand that the statements about single commands name, at its value and one below. -/
theorem witness_operand_bound :
    (List.replicate 6 0x00#8).length ≤ busy.params.dinMax ∧ (List.replicate 5 0x00#8).length ≤ busy.params.dinMax ∧
      ([] : List Byte).length ≤ busy.params.dinMax := by decide

theorem witness_LrcInitClearsTheAccumulator : exec .lrcInit busy = .next { busy with lrc := 0#8, err := 0#4, ok := true } := rfl

theorem witness_LrcFeedFoldsTheOperand : (List.replicate 6 0xFF#8).length ≤ busy.params.dinMax := by decide

theorem witness_LrcCalcReplacesTheAccumulator : ([] : List Byte).length ≤ busy.params.dinMax := by decide

theorem witness_LrcCheckComparesTheLastByte :
    [0x5A#8].length ≤ busy.params.dinMax ∧ lrcOf [0x5A#8] = 0x5A#8 ∧ lrcOf [0x5A#8] ≠ 0x5B#8 ∧ lrcOf [] = 0x00#8 := by
  decide

theorem witness_CrcFoldIsLinear : [0x80#8, 0x0A#8].length = [0x01#8, 0xFF#8].length := by decide

theorem witness_CrcInitSetsTheInitialValue : busy.params.crcMode = .x25 ∧ resetFalse.params.crcMode = .ccittFalse := by decide

theorem witness_CrcFeedStreamsTheOperands : (List.replicate 6 0x80#8).length ≤ busy.params.dinMax := by decide

theorem witness_CrcCalcWritesLowByteFirst :
    [0x01#8].length ≤ busy.params.dinMax ∧ busy.params.crcMode = .x25 ∧ resetFalse.params.crcMode = .ccittFalse := by decide

/-- V33, V34, V35 and operands of 0, 1 and 2 bytes. -/
theorem witness_CrcCheckComparesTheStoredCrc :
    ([] : List Byte).length < 2 ∧ [0x00#8].length < 2 ∧ [0x00#8, 0x00#8].length ≤ busy.params.dinMax ∧
      (crc16 busy.params.crcMode []).toNat = 256 * (0x00#8).toNat + (0x00#8).toNat ∧
      (crc16 busy.params.crcMode []).toNat ≠ 256 * (0xFF#8).toNat + (0xFF#8).toNat ∧
      (crc16 resetFalse.params.crcMode []).toNat = 256 * (0xFF#8).toNat + (0xFF#8).toNat := by decide

theorem witness_StreamedCrcIgnoresOtherCommands :
    ∀ i ∈ [Instr.crcFeed [0x80#8], .lrcInit, .crcCheck [], .rxClear, .crcFeed [0x0A#8]],
      i.op ≠ .crcInit ∧ i.op ≠ .crcCalc := by decide

theorem witness_StreamedLrcIgnoresOtherCommands :
    ∀ i ∈ [Instr.lrcFeed [0x80#8], .crcInit, .lrcCheck [], .rxClear, .lrcFeed [0x0A#8]],
      i.op ≠ .lrcInit ∧ i.op ≠ .lrcCalc := by decide

theorem witness_LrcEncBuildsTheFrame :
    (List.replicate 65535 0x00#8).length ≤ 65535 ∧ 65535 < (List.replicate 65536 0x00#8).length ∧
      [0xAA#8].length ≤ State.reset.params.dinMax := by
  simp only [List.length_replicate]
  decide

theorem witness_LrcFrameInvariant :
    exec (.lrcEnc [0xAA#8]) State.reset = .next (after (.lrcEnc [0xAA#8]) State.reset) ∧
      (after (.lrcEnc [0xAA#8]) State.reset).ok = true ∧
      exec (.lrcDec lrcFrameAA) State.reset = .next (after (.lrcDec lrcFrameAA) State.reset) ∧
      (after (.lrcDec lrcFrameAA) State.reset).ok = true := ⟨rfl, by decide, rfl, by decide⟩

/-- V51 and V53: what passes through, at 4 bytes and at 5. -/
theorem witness_LrcDecOutcomes_passThrough :
    [0x02#8, 0#8, 0#8, 0x03#8].length < 5 ∧ ([] : List Byte).length < 5 ∧
      [0x03#8, 0#8, 0#8, 0x03#8, 0x01#8].head? ≠ some busy.params.stxByte := by decide

/-- V57, V58 and a five-byte frame that claims data. -/
theorem witness_LrcDecOutcomes_length :
    (5 ≤ (busy.params.stxByte :: 0x00#8 :: 0x01#8 :: [0xAA#8, 0x03#8]).length ∧
        [0xAA#8, 0x03#8].length ≠ (0x00#8).toNat * 256 + (0x01#8).toNat + 2) ∧
      (5 ≤ (busy.params.stxByte :: 0x00#8 :: 0x01#8 :: [0xAA#8, 0x03#8, 0xAA#8, 0x00#8]).length ∧
        [0xAA#8, 0x03#8, 0xAA#8, 0x00#8].length ≠ (0x00#8).toNat * 256 + (0x01#8).toNat + 2) ∧
      [0x03#8, 0x01#8].length ≠ (0xFF#8).toNat * 256 + (0xFF#8).toNat + 2 := by decide

/-- V60, V62 and V56, and V55 with its empty payload. -/
theorem witness_LrcDecOutcomes_framed :
    0x02#8 = busy.params.stxByte ∧ [0xAA#8].length = (0x00#8).toNat * 256 + (0x01#8).toNat ∧
      ([] : List Byte).length = (0x00#8).toNat * 256 + (0x00#8).toNat ∧
      0x04#8 ≠ busy.params.etxByte ∧ 0x03#8 = busy.params.etxByte ∧
      lrcOf (0x02#8 :: 0x00#8 :: 0x01#8 :: [0xAA#8] ++ [0x03#8]) ≠ 0xAB#8 ∧
      lrcOf (0x02#8 :: 0x00#8 :: 0x01#8 :: [0xAA#8] ++ [0x03#8]) = 0xAA#8 ∧
      lrcOf (0x02#8 :: 0x00#8 :: 0x00#8 :: [] ++ [0x03#8]) = 0x01#8 ∧ lrcFrameAA.length ≤ busy.params.dinMax := by decide

theorem witness_LrcFrameRoundTrip :
    (List.replicate 65535 0xAB#8).length ≤ 65535 ∧
      (List.replicate 65535 0xAB#8).length + 5 ≤ State.reset.params.dinMax := by
  simp only [List.length_replicate]
  decide

theorem witness_LrcDecAcceptsOnlyBuiltFrames :
    exec (.lrcDec lrcFrameAA) busy = .next (after (.lrcDec lrcFrameAA) busy) ∧
      (after (.lrcDec lrcFrameAA) busy).ok = true := ⟨rfl, by decide⟩

/-- Every byte of a six-byte frame and both ends of the bit range; byte 4, ETX, is the one no clause is about. -/
theorem witness_LrcFrameBitErrorsAreDetected :
    exec (.lrcEnc [0xAA#8]) busy = .next (after (.lrcEnc [0xAA#8]) busy) ∧ (after (.lrcEnc [0xAA#8]) busy).ok = true ∧
      (∀ j ∈ [0, 1, 2, 3, 4, 5], j < [0xAA#8].length + 5) ∧ (∀ k ∈ [0, 7], k < 8) ∧
      5 = [0xAA#8].length + 4 ∧ (3 ≤ 3 ∧ 3 < [0xAA#8].length + 3) ∧ ¬ 4 < [0xAA#8].length + 3 :=
  ⟨rfl, by decide, by decide, by decide, by decide, by decide, by decide⟩

theorem witness_HostRuleCutsLrcFramesExactly :
    exec (.lrcEnc [0xAA#8]) busy = .next (after (.lrcEnc [0xAA#8]) busy) ∧ (after (.lrcEnc [0xAA#8]) busy).ok = true ∧
      ∀ n ∈ [0, 2, 3, 5], n < (after (.lrcEnc [0xAA#8]) busy).out.length := ⟨rfl, by decide, by decide⟩

/-- V79 and V80: 253 bytes fit with the default `LEN_BIAS`, 254 do not. -/
theorem witness_CrcEncBuildsTheFrame :
    (List.replicate 253 0x55#8).length ≤ State.reset.params.dinMax ∧
      (List.replicate 253 0x55#8).length + State.reset.params.lenBias.val ≤ 255 ∧
      255 < (List.replicate 254 0x55#8).length + State.reset.params.lenBias.val := by
  simp only [List.length_replicate]
  decide

/-- V91 to V95, with payload `[]` or `[AA]`: LEN below the bias, equal to it, and one above. -/
theorem witness_CrcDecOutcomes :
    [0x00#8, 0x02#8, 0x00#8, 0x00#8, 0x66#8].length < 6 ∧ (List.replicate 6 0x00#8).length ≤ busy.params.dinMax ∧
      ¬ (busy.params.lenBias.val ≤ (0x01#8).toNat ∧
        ([] : List Byte).length + busy.params.lenBias.val = (0x01#8).toNat) ∧
      ¬ (busy.params.lenBias.val ≤ (0x03#8).toNat ∧
        ([] : List Byte).length + busy.params.lenBias.val = (0x03#8).toNat) ∧
      (busy.params.lenBias.val ≤ (0x02#8).toNat ∧
        ([] : List Byte).length + busy.params.lenBias.val = (0x02#8).toNat) ∧
      (crc16 busy.params.crcMode [0x00#8, 0x02#8, 0x00#8, 0x00#8]).toNat ≠ 256 * (0x48#8).toNat + (0x66#8).toNat ∧
      (crc16 busy.params.crcMode [0x00#8, 0x02#8, 0x00#8, 0x00#8]).toNat = 256 * (0x49#8).toNat + (0x66#8).toNat := by
  decide +kernel

theorem witness_CrcFrameRoundTrip :
    (List.replicate 253 0x55#8).length ≤ 255 - State.reset.params.lenBias.val ∧
      (List.replicate 253 0x55#8).length + 6 ≤ State.reset.params.dinMax := by
  simp only [List.length_replicate]
  decide

theorem crcDec_after (din : List Byte) (s : State) : exec (.crcDec din) s = .next (after (.crcDec din) s) := rfl

theorem witness_CrcDecAcceptsOnlyBuiltFrames :
    exec (.crcDec huntFrame) busy = .next (after (.crcDec huntFrame) busy) ∧
      (after (.crcDec huntFrame) busy).ok = true := ⟨crcDec_after huntFrame busy, by decide +kernel⟩

/-- A first byte for each clause; the bounds 7 and 8, 14 and 15, and 0 + 4. -/
theorem witness_FicDecidesByThreeTiers :
    (0x01#8 :: ([] : List Byte)).length = 1 ∧ ¬ (0x01#8 :: [0x01#8]).length = 1 ∧
      ((0x00#8 : Byte) ≠ 0x04#8 ∧ (0x00#8 : Byte) ≠ 0x0B#8 ∧
        ¬ ((0x00#8 :: ([] : List Byte)).length = 1 ∧ (0x00#8 : Byte) = 0x01#8)) ∧
      ([0x05#8] : List Byte).length = [0x06#8].length ∧
      fic (reply8.take 7) = ⟨false, 0#2⟩ ∧ fic reply8 = ⟨true, 1#2⟩ ∧
      fic (reply15.take 14) = ⟨false, 0#2⟩ ∧ fic reply15 = ⟨true, 1#2⟩ := by decide

theorem witness_FicProperties :
    (0x0B#8 = 0x04#8 ∨ 0x0B#8 = 0x0B#8) ∧ (fic reply8).complete = true ∧ reply8 ≠ [0x01#8] := by decide

theorem witness_FicMisjudgesFramesAndPrefixes :
    busy.params.stxByte = 0x02#8 ∧ exec (.lrcEnc [0xAA#8]) busy = .next (after (.lrcEnc [0xAA#8]) busy) ∧
      (after (.lrcEnc [0xAA#8]) busy).ok = true ∧ (∀ n ∈ [0, 5, 6], n ≤ (after (.lrcEnc [0xAA#8]) busy).out.length) ∧
      reply8 ≠ [] := ⟨rfl, rfl, by decide, by decide, by decide⟩

/-- The buffer exactly full and one byte too many. -/
theorem witness_RxAppendIsAllOrNothing :
    (List.replicate 6 0x00#8).length ≤ busy.params.dinMax ∧
      busy.rxbuf.length + ([] : List Byte).length ≤ busy.params.rxbufCap ∧
      busy.params.rxbufCap < busy.rxbuf.length + [0x00#8].length := by decide

theorem witness_ReassemblyConcatenatesTheChunks :
    (∀ i ∈ [Instr.rxAppend reply8, .lrcInit, .rxAppend (reply8.take 7)], i.op ≠ .rxClear) ∧
      (([Instr.rxAppend reply8, .lrcInit, .rxAppend (reply8.take 7)].filter fun i =>
        decide (i.op = .rxAppend)).map Instr.din).flatten.length ≤ busy.params.rxbufCap := by decide

end Sys2Proof.Tests
end

section
/-! SUPPORT. The statements about the state as a whole (10_state.md). One relation, `Effect`, says what the fifteen rules
can leave; every rule's answer is one (`exec_effect`), and outcomes, bounds and the frame of R38 are read off it. -/
namespace Sys2Proof.Machine

/-! ### The `STATUS` word -/

/-- R31: `TIER` is 0 exactly when the buffer is not complete. -/
theorem fic_tier_eq_zero_iff (bytes : List Byte) :
    (fic bytes).tier = 0#2 ↔ (fic bytes).complete = false := by
  cases bytes with
  | nil => simp [fic, notComplete]
  | cons b rest =>
    simp only [fic]
    split
    · split <;> simp [notComplete]
    · split
      · simp
      · split <;> simp [notComplete]

theorem statusWord_err (s : State) : s.statusWord.extractLsb' 0 4 = s.err := by
  unfold State.statusWord
  rw [extract_append_low _ _ _ (by omega)]
  simp

theorem statusWord_ok (s : State) : s.statusWord.getLsbD 4 = s.ok := by
  unfold State.statusWord
  rw [BitVec.getLsbD_append, BitVec.getLsbD_append]
  simp

theorem statusWord_pass (s : State) : s.statusWord.getLsbD 5 = s.pass := by
  unfold State.statusWord
  iterate 3 rw [BitVec.getLsbD_append]
  simp

theorem statusWord_complete (s : State) : s.statusWord.getLsbD 6 = (fic s.rxbuf).complete := by
  unfold State.statusWord State.complete
  iterate 4 rw [BitVec.getLsbD_append]
  simp

theorem statusWord_tier (s : State) : s.statusWord.extractLsb' 7 2 = (fic s.rxbuf).tier := by
  unfold State.statusWord State.tier
  iterate 4 rw [extract_append_high _ _ _ (by omega)]
  rw [extract_append_low _ _ _ (by omega)]
  simp

theorem statusWord_reserved (s : State) : s.statusWord.extractLsb' 9 7 = 0#7 := by
  unfold State.statusWord
  iterate 5 rw [extract_append_high _ _ _ (by omega)]
  simp

/-- The three stored fields of `STATUS` can be read back from the word. -/
theorem stored_fields_eq_of_statusWord_eq {s t : State} (h : s.statusWord = t.statusWord) :
    s.err = t.err ∧ s.ok = t.ok ∧ s.pass = t.pass :=
  ⟨by rw [← statusWord_err s, h, statusWord_err], by rw [← statusWord_ok s, h, statusWord_ok],
    by rw [← statusWord_pass s, h, statusWord_pass]⟩

/-! ### The three outcomes of R214 to R216 -/

theorem errCode_toNat_le (e : ErrCode) : (errCode e).toNat ≤ 8 := by cases e <;> decide

theorem errCode_eq_zero_iff (e : ErrCode) : errCode e = 0#4 ↔ e = .none := by cases e <;> decide

theorem oneOutcome_succeed (s : State) : OneOutcome s.succeed := .inl ⟨rfl, rfl, rfl⟩

theorem oneOutcome_passThrough (s : State) : OneOutcome s.passThrough := .inr (.inl ⟨rfl, rfl, rfl⟩)

theorem oneOutcome_raiseError (s : State) {e : ErrCode} (he : e ≠ .none) : OneOutcome (s.raiseError e) :=
  .inr (.inr ⟨rfl, rfl, mt (errCode_eq_zero_iff e).mp he⟩)

theorem OneOutcome.statusWord_ne_zero {s : State} (h : OneOutcome s) : s.statusWord ≠ 0x0000#16 := by
  intro hw
  have herr : s.err = 0#4 := by rw [← statusWord_err, hw]; rfl
  have hok : s.ok = false := by rw [← statusWord_ok, hw]; rfl
  have hpass : s.pass = false := by rw [← statusWord_pass, hw]; rfl
  simp [OneOutcome, herr, hok, hpass] at h

/-! ### What the end of a decode command leaves -/

section
variable (s : State) (din : List Byte) (r : Parsed)

@[simp] theorem State.finishDecode_params : (s.finishDecode din r).params = s.params := by cases r <;> rfl
@[simp] theorem State.finishDecode_input : (s.finishDecode din r).input = s.input := by cases r <;> rfl
@[simp] theorem State.finishDecode_lrc : (s.finishDecode din r).lrc = s.lrc := by cases r <;> rfl
@[simp] theorem State.finishDecode_crc : (s.finishDecode din r).crc = s.crc := by cases r <;> rfl
@[simp] theorem State.finishDecode_rxbuf : (s.finishDecode din r).rxbuf = s.rxbuf := by cases r <;> rfl

end

/-- What R151 and R157 ask of a parse of `din`: an error it finds is a real one, and a payload is no longer than
the input. -/
inductive ParseOf (din : List Byte) : Parsed → Prop where
  | notFramed : ParseOf din .notFramed
  | bad {e : ErrCode} (he : e ≠ .none) : ParseOf din (.bad e)
  | frame {payload : List Byte} {fields : Word} (hlen : payload.length ≤ din.length) :
    ParseOf din (.frame payload fields)

theorem slice_length_le (xs : List Byte) (i j : Nat) : (slice xs i j).length ≤ xs.length := by
  rw [slice_length]
  omega

theorem parseLrcFrame_parseOf (p : Params) (din : List Byte) : ParseOf din (parseLrcFrame p din) := by
  unfold parseLrcFrame
  split
  · exact .notFramed
  · dsimp only
    split
    · exact .bad nofun
    · split
      · exact .bad nofun
      · split
        · exact .bad nofun
        · exact .frame (slice_length_le ..)

theorem parseCrcFrame_parseOf (p : Params) (din : List Byte) : ParseOf din (parseCrcFrame p din) := by
  unfold parseCrcFrame
  dsimp only
  split
  · exact .bad nofun
  · split
    · exact .bad nofun
    · split
      · exact .bad nofun
      · exact .frame (slice_length_le ..)

theorem ParseOf.oneOutcome {din : List Byte} {r : Parsed} (h : ParseOf din r) (s : State) :
    OneOutcome (s.finishDecode din r) := by
  cases h with
  | notFramed => exact oneOutcome_passThrough _
  | bad he => exact oneOutcome_raiseError _ he
  | frame hlen => exact oneOutcome_succeed _

theorem ParseOf.err_eq_errCode {din : List Byte} {r : Parsed} (h : ParseOf din r) (s : State) :
    ∃ e, (s.finishDecode din r).err = errCode e := by
  cases h with
  | notFramed => exact ⟨.none, rfl⟩
  | bad he => exact ⟨_, rfl⟩
  | frame hlen => exact ⟨.none, rfl⟩

theorem ParseOf.out_length_le {din : List Byte} {r : Parsed} (h : ParseOf din r) (s : State) :
    (s.finishDecode din r).out.length ≤ din.length := by
  cases h with
  | notFramed => exact le_rfl
  | bad he => exact le_rfl
  | frame hlen => exact hlen

/-! ### What a command can leave (R38) -/

/-- `w` is `s` with the registers written that command `i` writes when it succeeds, and with nothing else changed;
of the values written it says what the bounds of R35 and R36 need. -/
inductive Written (i : Instr) (s : State) : State → Prop where
  | nothing (hi : i.op ∈ [.nop, .lrcCheck, .crcCheck]) : Written i s s
  | lrc (v : Byte) (hi : i.op ∈ [.lrcInit, .lrcFeed]) : Written i s (s.setLrc v)
  | crc (v : Half) (hi : i.op ∈ [.crcInit, .crcFeed]) : Written i s (s.setCrc v)
  | lrcOut (v : Byte) (hi : i.op = .lrcCalc) : Written i s ((s.setLrc v).setOut [v])
  | crcOut (v w : Half) (hi : i.op = .crcCalc) : Written i s ((s.setCrc v).setOut (lowFirst w))
  | encoded (bytes : List Byte) (hlen : bytes.length ≤ 65540) (hi : i.op ∈ [.lrcEnc, .crcEnc]) :
    Written i s (s.setOut bytes)
  | rxClear (hi : i.op = .rxClear) : Written i s (s.setRxbuf [])
  | rxAppend (hfit : s.rxbuf.length + i.din.length ≤ s.params.rxbufCap) (hi : i.op = .rxAppend) :
    Written i s (s.setRxbuf (s.rxbuf ++ i.din))

/-- The three ways a command ends: success after its writes, failure without a write, and the end of a decode command,
which writes on every outcome. -/
inductive Effect (i : Instr) (s : State) : State → Prop where
  | success {w : State} (hw : Written i s w) : Effect i s w.succeed
  | failure {e : ErrCode} (he : e ≠ .none) : Effect i s (s.raiseError e)
  | decoded {r : Parsed} (hr : ParseOf i.din r) (hi : i.op ∈ [.lrcDec, .crcDec]) : Effect i s (s.finishDecode i.din r)

/-- An early error leaves what any command's failure leaves (R216, R217). -/
theorem Effect.earlyError (i : Instr) (s : State) {e : ErrCode} (he : e ≠ .none) : Effect i s (s.earlyError e) :=
  .failure he

/-- No command faults and none is refused (R210). -/
theorem exec_total (i : Instr) (s : State) : ∃ t, exec i s = .next t := by
  cases i with
  | lrcCheck din =>
    rw [exec_lrcCheck, execLrcCheck]
    split
    · exact ⟨_, rfl⟩
    · split <;> exact ⟨_, rfl⟩
  | crcCheck din =>
    rw [exec_crcCheck, execCrcCheck]
    split
    · exact ⟨_, rfl⟩
    · split <;> exact ⟨_, rfl⟩
  | lrcEnc din => rw [exec_lrcEnc, execLrcEnc]; split <;> exact ⟨_, rfl⟩
  | crcEnc cmd cls ident din => rw [exec_crcEnc, execCrcEnc]; split <;> exact ⟨_, rfl⟩
  | rxAppend din => rw [exec_rxAppend, execRxAppend]; split <;> exact ⟨_, rfl⟩
  | _ => exact ⟨_, rfl⟩

/-- Whatever a command answers is one of its effects. -/
theorem exec_effect {i : Instr} {s t : State} (h : exec i s = .next t) : Effect i s t := by
  cases i with
  | nop => cases h; exact .success (.nothing (by decide))
  | lrcInit => cases h; exact .success (.lrc _ (by simp [Instr.op]))
  | lrcFeed din => cases h; exact .success (.lrc _ (by simp [Instr.op]))
  | lrcCalc din => cases h; exact .success (.lrcOut _ rfl)
  | lrcCheck din =>
    obtain ⟨-, rfl⟩ | ⟨-, rfl, -⟩ | ⟨-, rfl, -⟩ := execLrcCheck_cases h
    · exact .failure nofun
    · exact .success (.nothing (by simp [Instr.op]))
    · exact .failure nofun
  | crcInit => cases h; exact .success (.crc _ (by simp [Instr.op]))
  | crcFeed din => cases h; exact .success (.crc _ (by simp [Instr.op]))
  | crcCalc din => cases h; exact .success (.crcOut _ _ rfl)
  | crcCheck din =>
    obtain ⟨-, rfl⟩ | ⟨-, rfl, -⟩ | ⟨-, rfl, -⟩ := execCrcCheck_cases h
    · exact .failure nofun
    · exact .success (.nothing (by simp [Instr.op]))
    · exact .failure nofun
  | lrcEnc din =>
    obtain ⟨-, rfl⟩ | ⟨hlen, rfl⟩ := execLrcEnc_cases h
    · exact .failure nofun
    · exact .success (.encoded _ (by rw [lrcFrame_length]; omega) (by simp [Instr.op]))
  | lrcDec din => cases h; exact .decoded (parseLrcFrame_parseOf ..) (by simp [Instr.op])
  | crcEnc cmd cls ident din =>
    obtain ⟨-, rfl⟩ | ⟨hlen, rfl⟩ := execCrcEnc_cases h
    · exact .failure nofun
    · exact .success (.encoded _ (by rw [crcFrame_length]; omega) (by simp [Instr.op]))
  | crcDec din => cases h; exact .decoded (parseCrcFrame_parseOf ..) (by simp [Instr.op])
  | rxClear => cases h; exact .success (.rxClear rfl)
  | rxAppend din =>
    obtain ⟨-, rfl⟩ | ⟨hfit, rfl⟩ := execRxAppend_cases h
    · exact .failure nofun
    · exact .success (.rxAppend hfit rfl)

theorem Effect.oneOutcome {i : Instr} {s t : State} (h : Effect i s t) : OneOutcome t := by
  cases h with
  | success hw => exact oneOutcome_succeed _
  | failure he => exact oneOutcome_raiseError _ he
  | decoded hr hi => exact hr.oneOutcome s

theorem Effect.err_eq_errCode {i : Instr} {s t : State} (h : Effect i s t) : ∃ e, t.err = errCode e := by
  cases h with
  | success hw => exact ⟨.none, rfl⟩
  | failure he => exact ⟨_, rfl⟩
  | decoded hr hi => exact hr.err_eq_errCode s

/-- The bound of R35 holds of everything a command writes to `OUT`, when its operand is within `DIN_MAX`. -/
theorem Written.out_length_le {i : Instr} {s w : State} (h : Written i s w)
    (hs : s.out.length ≤ outBound s.params) : w.out.length ≤ outBound s.params := by
  have hbound : 65540 ≤ outBound s.params := le_max_right ..
  cases h with
  | nothing | lrc | crc | rxClear | rxAppend => exact hs
  | lrcOut v hi => exact le_trans (by simp) hbound
  | crcOut v w hi => exact le_trans (by simp [lowFirst]) hbound
  | encoded bytes hlen hi => exact le_trans hlen hbound

theorem Effect.out_length_le {i : Instr} {s t : State} (h : Effect i s t) (hdin : i.din.length ≤ s.params.dinMax)
    (hs : s.out.length ≤ outBound s.params) : t.out.length ≤ outBound s.params := by
  cases h with
  | success hw => exact hw.out_length_le hs
  | failure he => exact hs
  | decoded hr hi => exact (hr.out_length_le s).trans (hdin.trans (le_max_left ..))

theorem Written.rxbuf_length_le {i : Instr} {s w : State} (h : Written i s w)
    (hs : s.rxbuf.length ≤ s.params.rxbufCap) : w.rxbuf.length ≤ s.params.rxbufCap := by
  cases h with
  | nothing | lrc | crc | lrcOut | crcOut | encoded => exact hs
  | rxClear hi => exact Nat.zero_le _
  | rxAppend hfit hi => simpa using hfit

theorem Effect.rxbuf_length_le {i : Instr} {s t : State} (h : Effect i s t)
    (hs : s.rxbuf.length ≤ s.params.rxbufCap) : t.rxbuf.length ≤ s.params.rxbufCap := by
  cases h with
  | success hw => exact hw.rxbuf_length_le hs
  | failure he => exact hs
  | decoded hr hi => simpa using hs

/-! ### The frame: the registers outside a command's row (R38) -/

/-- The registers that command `i` has no cell for in R38 are in `t` as they are in `s`. -/
structure KeepsRest (i : Instr) (s t : State) : Prop where
  params : t.params = s.params
  input : t.input = s.input
  lrc : i.op ∉ [.lrcInit, .lrcFeed, .lrcCalc] → t.lrc = s.lrc
  crc : i.op ∉ [.crcInit, .crcFeed, .crcCalc] → t.crc = s.crc
  frm : i.op ∉ [.lrcDec, .crcDec] → t.frm = s.frm
  out : i.op ∉ [.lrcCalc, .crcCalc, .lrcEnc, .lrcDec, .crcEnc, .crcDec] → t.out = s.out
  rxbuf : i.op ∉ [.rxClear, .rxAppend] → t.rxbuf = s.rxbuf

theorem Written.keepsRest {i : Instr} {s w : State} (h : Written i s w) : KeepsRest i s w := by
  cases h with
  | nothing hi => exact ⟨rfl, rfl, fun _ => rfl, fun _ => rfl, fun _ => rfl, fun _ => rfl, fun _ => rfl⟩
  | lrc v hi => exact ⟨rfl, rfl, fun h => by simp_all, fun _ => rfl, fun _ => rfl, fun _ => rfl, fun _ => rfl⟩
  | crc v hi => exact ⟨rfl, rfl, fun _ => rfl, fun h => by simp_all, fun _ => rfl, fun _ => rfl, fun _ => rfl⟩
  | lrcOut v hi =>
    exact ⟨rfl, rfl, fun h => by simp_all, fun _ => rfl, fun _ => rfl, fun h => by simp_all, fun _ => rfl⟩
  | crcOut v w hi =>
    exact ⟨rfl, rfl, fun _ => rfl, fun h => by simp_all, fun _ => rfl, fun h => by simp_all, fun _ => rfl⟩
  | encoded bytes hlen hi =>
    exact ⟨rfl, rfl, fun _ => rfl, fun _ => rfl, fun _ => rfl, fun h => by simp_all, fun _ => rfl⟩
  | rxClear hi => exact ⟨rfl, rfl, fun _ => rfl, fun _ => rfl, fun _ => rfl, fun _ => rfl, fun h => by simp_all⟩
  | rxAppend hfit hi =>
    exact ⟨rfl, rfl, fun _ => rfl, fun _ => rfl, fun _ => rfl, fun _ => rfl, fun h => by simp_all⟩

theorem Effect.keepsRest {i : Instr} {s t : State} (h : Effect i s t) : KeepsRest i s t := by
  cases h with
  | success hw =>
    obtain ⟨hparams, hinput, hlrc, hcrc, hfrm, hout, hrxbuf⟩ := hw.keepsRest
    exact ⟨hparams, hinput, hlrc, hcrc, hfrm, hout, hrxbuf⟩
  | failure he => exact ⟨rfl, rfl, fun _ => rfl, fun _ => rfl, fun _ => rfl, fun _ => rfl, fun _ => rfl⟩
  | decoded hr hi =>
    exact ⟨by simp, by simp, fun _ => by simp, fun _ => by simp, fun h => by simp_all, fun h => by simp_all,
      fun _ => by simp⟩

/-- A command that does not succeed writes at most `STATUS`, unless it decodes a frame. -/
theorem Effect.eq_raiseError {i : Instr} {s t : State} (h : Effect i s t) (hop : i.op ∉ [.lrcDec, .crcDec])
    (hok : t.ok = false) : ∃ e, t = s.raiseError e := by
  cases h with
  | success hw => simp at hok
  | failure he => exact ⟨_, rfl⟩
  | decoded hr hi => exact absurd hi hop

/-! ### Decoding and issuing a command -/

theorem instr_din_length_le (o : Op) (cw : Word) (din : List Byte) : (o.instr cw din).din.length ≤ din.length := by
  cases o <;> simp [Op.instr, Instr.din]

/-- R77: decoding fails with one of the two early errors, or answers a command whose operand is within `DIN_MAX`. -/
theorem decode_cases (p : Params) (cw : Word) (din : List Byte) :
    decode p cw din = .error .illegalOp ∨ decode p cw din = .error .operandTooLong ∨
      ∃ i : Instr, decode p cw din = .ok i ∧ i.din.length ≤ p.dinMax := by
  unfold decode
  split
  · exact .inl rfl
  · next o ho =>
    split
    · exact .inl rfl
    · split
      · exact .inl rfl
      · split
        · exact .inr (.inl rfl)
        · next hfit => exact .inr (.inr ⟨_, rfl, (instr_din_length_le o cw din).trans (Nat.le_of_not_gt hfit)⟩)

/-- Every command, valid or not, answers a next state: the effect of a decoded command whose operand is within
`DIN_MAX`, or an early error, which leaves what a failure of any command leaves, NOP's too. -/
theorem runCommand_effect (cw : Word) (din : List Byte) (s : State) :
    ∃ t, runCommand cw din s = .next t ∧ ∃ i : Instr, i.din.length ≤ s.params.dinMax ∧ Effect i s t := by
  unfold runCommand
  obtain hd | hd | ⟨i, hd, hdin⟩ := decode_cases s.params cw din <;> rw [hd]
  · exact ⟨_, rfl, .nop, Nat.zero_le _, .earlyError _ s nofun⟩
  · exact ⟨_, rfl, .nop, Nat.zero_le _, .earlyError _ s nofun⟩
  · obtain ⟨t, ht⟩ := exec_total i s
    exact ⟨t, ht, i, hdin, exec_effect ht⟩

/-! ### Steps and runs -/

/-- Everything one step can do: nothing when the block is idle, and otherwise a reset or the effect of a command on the
state with the event taken. -/
theorem step_cases {s t : State} (h : step s = .next t) :
    t = s ∨ ∃ ev rest, s.input = ev :: rest ∧
      (t = State.applyReset { s with input := rest } ∨
        ∃ i : Instr, i.din.length ≤ s.params.dinMax ∧ Effect i { s with input := rest } t) := by
  unfold step at h
  cases hin : s.input with
  | nil =>
    rw [takeEvent_nil hin] at h
    cases h
    exact .inl rfl
  | cons ev rest =>
    rw [takeEvent_cons hin] at h
    refine .inr ⟨ev, rest, rfl, ?_⟩
    cases ev with
    | rst =>
      cases h
      exact .inl rfl
    | command cw din =>
      obtain ⟨u, hu, hi⟩ := runCommand_effect cw din { s with input := rest }
      obtain rfl : u = t := Host.Outcome.next.inj (hu.symm.trans h)
      exact .inr hi

theorem step_params {s t : State} (h : step s = .next t) : t.params = s.params := by
  obtain rfl | ⟨ev, rest, -, rfl | ⟨i, -, he⟩⟩ := step_cases h
  · rfl
  · rfl
  · exact he.keepsRest.params

/-- What every step keeps, a run of any length keeps. -/
theorem run_keeps {P : State → Prop} (hstep : ∀ s t, step s = .next t → P s → P t) {k : Nat} {s t : State}
    (h : Sys2Proof.core.run k s = .next t) (hs : P s) : P t := by
  induction k generalizing s with
  | zero => cases h; exact hs
  | succ k ih =>
    simp only [Host.Core.run] at h
    split at h
    · next u hu => exact ih h (hstep s u hu hs)
    · cases h
    · cases h

/-! ### The invariant -/

theorem Inv.applyReset {s : State} (h : Inv s) : Inv s.applyReset where
  paramsWf := h.paramsWf
  errAssigned := Nat.zero_le _
  okAlone := nofun
  passAlone := nofun
  outBounded := Nat.zero_le _
  rxbufBounded := Nat.zero_le _

/-- The invariant does not speak of what the host has issued. -/
theorem Inv.setInput {s : State} (h : Inv s) (rest : List HostEvent) : Inv { s with input := rest } :=
  ⟨h.paramsWf, h.errAssigned, h.okAlone, h.passAlone, h.outBounded, h.rxbufBounded⟩

theorem OneOutcome.okAlone {s : State} (h : OneOutcome s) (hok : s.ok = true) : s.pass = false ∧ s.err = 0#4 := by
  simpa [OneOutcome, hok] using h

theorem OneOutcome.passAlone {s : State} (h : OneOutcome s) (hpass : s.pass = true) : s.err = 0#4 := by
  obtain ⟨-, -, he⟩ | ⟨-, -, he⟩ | ⟨-, hno, -⟩ := h
  · exact he
  · exact he
  · simp [hno] at hpass

theorem Inv.effect {i : Instr} {s t : State} (h : Inv s) (he : Effect i s t) (hdin : i.din.length ≤ s.params.dinMax) :
    Inv t where
  paramsWf := by rw [he.keepsRest.params]; exact h.paramsWf
  errAssigned := by
    obtain ⟨e, hcode⟩ := he.err_eq_errCode
    rw [hcode]
    exact errCode_toNat_le e
  okAlone := he.oneOutcome.okAlone
  passAlone := he.oneOutcome.passAlone
  outBounded := by rw [he.keepsRest.params]; exact he.out_length_le hdin h.outBounded
  rxbufBounded := by rw [he.keepsRest.params]; exact he.rxbuf_length_le h.rxbufBounded

/-! ### Reassembly -/

/-- The bytes a command offers to `RXBUF`: RX_APPEND's operand (R162). -/
def chunkOf (i : Instr) : List Byte := if i.op = .rxAppend then i.din else []

/-- The operands of a list's RX_APPEND commands, in order, are its commands' chunks. -/
theorem flatten_appends_eq_flatMap_chunkOf (is : List Instr) :
    ((is.filter fun i => decide (i.op = .rxAppend)).map Instr.din).flatten = is.flatMap chunkOf := by
  induction is with
  | nil => rfl
  | cons i rest ih => by_cases hi : i.op = .rxAppend <;> simp [chunkOf, hi, ih]

theorem eq_rxAppend_of_op_eq {i : Instr} (h : i.op = .rxAppend) : i = .rxAppend i.din := by
  cases i with
  | rxAppend din => rfl
  | _ => cases h

/-- A command other than RX_CLEAR whose chunk fits adds its chunk at the end of `RXBUF`, and only that. -/
theorem exec_appends_chunkOf {i : Instr} {s : State} (hop : i.op ≠ .rxClear)
    (hfit : s.rxbuf.length + (chunkOf i).length ≤ s.params.rxbufCap) :
    ∃ t, exec i s = .next t ∧ t.params = s.params ∧ t.rxbuf = s.rxbuf ++ chunkOf i := by
  by_cases hi : i.op = .rxAppend
  · rw [chunkOf, if_pos hi] at hfit ⊢
    rw [eq_rxAppend_of_op_eq hi, exec_rxAppend]
    exact ⟨_, execRxAppend_fits hfit, rfl, rfl⟩
  · obtain ⟨t, ht⟩ := exec_total i s
    have hrest := (exec_effect ht).keepsRest
    exact ⟨t, ht, hrest.params, by rw [hrest.rxbuf (by simp [hop, hi]), chunkOf, if_neg hi, List.append_nil]⟩

/-- Commands other than RX_CLEAR whose chunks fit together add them at the end of `RXBUF`, in order. -/
theorem execAll_appends_chunks (is : List Instr) (s : State) (hop : ∀ i ∈ is, i.op ≠ .rxClear)
    (hfit : s.rxbuf.length + (is.flatMap chunkOf).length ≤ s.params.rxbufCap) :
    ∃ t, execAll is s = .next t ∧ t.rxbuf = s.rxbuf ++ is.flatMap chunkOf := by
  induction is generalizing s with
  | nil => exact ⟨s, rfl, by simp⟩
  | cons i rest ih =>
    rw [List.flatMap_cons, List.length_append] at hfit
    obtain ⟨u, hu, hparams, hrxbuf⟩ := exec_appends_chunkOf (hop i List.mem_cons_self) (s := s) (by omega)
    obtain ⟨t, ht, htbuf⟩ := ih u (fun j hj => hop j (List.mem_cons_of_mem i hj))
      (by rw [hrxbuf, hparams, List.length_append]; omega)
    exact ⟨t, (execAll_cons_next hu).trans ht, by rw [htbuf, hrxbuf, List.flatMap_cons, List.append_assoc]⟩

/-! ### The obligations -/

/-- Settles O15: a step idles, resets, or has the effect of a command, and each keeps the invariant. -/
theorem everyStepKeepsTheInvariant : Obligations.EveryStepKeepsTheInvariant := by
  intro s t hs h
  obtain rfl | ⟨ev, rest, -, rfl | ⟨i, hdin, he⟩⟩ := step_cases h
  · exact hs
  · exact (hs.setInput rest).applyReset
  · exact (hs.setInput rest).effect he hdin

/-- Settles O17, by induction on the length of the run. -/
theorem parametersNeverChange : Obligations.ParametersNeverChange := fun _ s _ h =>
  run_keeps (P := fun u => u.params = s.params) (fun _ _ hstep hu => (step_params hstep).trans hu) h rfl

/-- Settles O18: every command, decoded or not, has an effect, and every effect records one outcome. -/
theorem completedCommandLeavesOneOutcome : Obligations.CompletedCommandLeavesOneOutcome := by
  refine ⟨fun s cw din => ?_, fun p => ⟨rfl, rfl, rfl⟩⟩
  obtain ⟨t, ht, i, -, he⟩ := runCommand_effect cw din s
  exact ⟨t, ht, he.oneOutcome, he.oneOutcome.statusWord_ne_zero⟩

/-- Settles O22: the registers outside the row from the frame of the effect, the success-only cells from what an
unsuccessful command leaves. -/
theorem commandsWriteOnlyTheirRow : Obligations.CommandsWriteOnlyTheirRow := by
  intro i s t h
  have he := exec_effect h
  obtain ⟨hparams, hinput, hlrc, hcrc, hfrm, hout, hrxbuf⟩ := he.keepsRest
  refine ⟨hparams, hinput, hlrc, hcrc, hfrm, hout, hrxbuf, fun hop hok => ?_, fun hop hok => ?_⟩
  · have hdec : i.op ∉ [.lrcDec, .crcDec] := by obtain hop | hop := List.mem_pair.mp hop <;> simp [hop]
    obtain ⟨e, rfl⟩ := he.eq_raiseError hdec hok
    rfl
  · obtain ⟨e, rfl⟩ := he.eq_raiseError (by simp [hop]) hok
    rfl

/-- Settles O57, by induction on the commands after RX_CLEAR. -/
theorem reassemblyConcatenatesTheChunks : Obligations.ReassemblyConcatenatesTheChunks := by
  intro s is hop chunks hfit
  have hchunks : chunks = is.flatMap chunkOf := flatten_appends_eq_flatMap_chunkOf is
  obtain ⟨t, ht, htbuf⟩ := execAll_appends_chunks is (s.setRxbuf []).succeed hop (by simpa [← hchunks] using hfit)
  exact ⟨t, (execAll_cons_next rfl).trans ht, by rw [htbuf, hchunks]; rfl⟩

/-- Settles O19, field by field. -/
theorem statusWordFields : Obligations.StatusWordFields := by
  intro s
  rw [statusWord_err, statusWord_ok, statusWord_pass, statusWord_complete, statusWord_tier, statusWord_reserved]
  exact ⟨rfl, rfl, rfl, rfl, rfl, rfl, fic_tier_eq_zero_iff s.rxbuf⟩

/-- Settles O20: five registers are read whole, and the stored fields of `STATUS` are bits of its word. -/
theorem hostReadsShowTheWholeState : Obligations.HostReadsShowTheWholeState := by
  refine ⟨fun s t hparams hinput hread => ?_, fun s => ⟨rfl, rfl⟩⟩
  have hlrc : s.lrc = t.lrc := HostValue.byte.inj (hread .lrc)
  have hcrc : s.crc = t.crc := HostValue.half.inj (hread .crc)
  have hfrm : s.frm = t.frm := HostValue.word.inj (hread .frm)
  have hout : s.out = t.out := HostValue.bytes.inj (hread .out)
  have hrxbuf : s.rxbuf = t.rxbuf := HostValue.bytes.inj (hread .rxbuf)
  obtain ⟨herr, hok, hpass⟩ := stored_fields_eq_of_statusWord_eq (HostValue.half.inj (hread .status))
  cases s
  cases t
  simp_all

end Sys2Proof.Machine
end

section
/-! SUPPORT. The statements about issuing commands one after the other (20_memory.md). One lemma, `exec_eq_overwrite`,
says what a command's writes depend on: the parameters, for the three feeding commands their accumulator, and nothing
else. That a repeated command changes nothing (R58) and that no command sees a later one (R60) are read off it. -/
namespace Sys2Proof.Machine

/-! ### A command as an overwrite of registers -/

/-- Fixed values for `STATUS` and for some of the other registers; `none` where a register is not written. -/
structure Overwrite where
  err : ErrCode
  ok : Bool
  pass : Bool
  lrc : Option Byte := none
  crc : Option Half := none
  frm : Option Word := none
  out : Option (List Byte) := none
  rxbuf : Option (List Byte) := none

namespace Overwrite

/-- The state once the values are written. -/
def apply (w : Overwrite) (s : State) : State :=
  { s with
    err := errCode w.err, ok := w.ok, pass := w.pass, lrc := w.lrc.getD s.lrc, crc := w.crc.getD s.crc,
    frm := w.frm.getD s.frm, out := w.out.getD s.out, rxbuf := w.rxbuf.getD s.rxbuf }

/-- The success outcome alone (R214). -/
def success : Overwrite := { err := .none, ok := true, pass := false }

/-- The failure outcome alone (R216). -/
def failure (e : ErrCode) : Overwrite := { err := e, ok := false, pass := false }

/-- What the end of a decode command writes (R34, R151, R157). -/
def ofParsed (din : List Byte) : Parsed → Overwrite
  | .notFramed => { err := .none, ok := false, pass := true, out := some din, frm := some 0#32 }
  | .bad e => { failure e with out := some din, frm := some 0#32 }
  | .frame payload fields => { success with out := some payload, frm := some fields }

theorem apply_ofParsed (din : List Byte) (r : Parsed) (s : State) :
    (ofParsed din r).apply s = s.finishDecode din r := by
  cases r <;> rfl

theorem apply_params (w : Overwrite) (s : State) : (w.apply s).params = s.params := rfl

theorem apply_setInput (w : Overwrite) (s : State) (evs : List HostEvent) :
    w.apply { s with input := evs } = { w.apply s with input := evs } := rfl

theorem getD_getD_self {α : Type} (o : Option α) (a : α) : o.getD (o.getD a) = o.getD a := by
  cases o <;> rfl

/-- Fixed values written twice are the values written once. -/
theorem apply_apply (w : Overwrite) (s : State) : w.apply (w.apply s) = w.apply s := by
  simp only [apply, getD_getD_self]

end Overwrite

/-! ### What a command reads -/

/-- The commands that add to what a register holds (R58). -/
def feedingOps : List Op := [.lrcFeed, .crcFeed, .rxAppend]

/-- `s` and `t` agree on all that command `i` reads: the parameters, and for a feeding command the registers that such
commands add to. -/
structure SameReads (i : Instr) (s t : State) : Prop where
  params : t.params = s.params
  lrc : i.op ∈ feedingOps → t.lrc = s.lrc
  crc : i.op ∈ feedingOps → t.crc = s.crc
  rxbuf : i.op ∈ feedingOps → t.rxbuf = s.rxbuf

theorem SameReads.refl (i : Instr) (s : State) : SameReads i s s := ⟨rfl, fun _ => rfl, fun _ => rfl, fun _ => rfl⟩

/-- No command reads what the host has issued after it. -/
theorem SameReads.setInput (i : Instr) (s : State) (evs : List HostEvent) : SameReads i s { s with input := evs } :=
  ⟨rfl, fun _ => rfl, fun _ => rfl, fun _ => rfl⟩

/-- A command that does not feed reads the parameters only. -/
theorem SameReads.of_params_eq {i : Instr} {s t : State} (hop : i.op ∉ feedingOps) (h : t.params = s.params) :
    SameReads i s t :=
  ⟨h, fun hi => absurd hi hop, fun hi => absurd hi hop, fun hi => absurd hi hop⟩

/-- A command writes the same values to the same registers in every state that agrees on what it reads. -/
theorem exec_eq_overwrite (i : Instr) (s : State) :
    ∃ w : Overwrite, ∀ t, SameReads i s t → exec i t = .next (w.apply t) := by
  cases i with
  | nop => exact ⟨.success, fun _ _ => rfl⟩
  | lrcInit => exact ⟨{ Overwrite.success with lrc := some 0x00#8 }, fun _ _ => rfl⟩
  | lrcFeed din =>
    refine ⟨{ Overwrite.success with lrc := some (lrcFold s.lrc din) }, fun t ht => ?_⟩
    rw [← ht.lrc (show Op.lrcFeed ∈ feedingOps by decide)]
    rfl
  | lrcCalc din =>
    exact ⟨{ Overwrite.success with lrc := some (lrcOf din), out := some [lrcOf din] }, fun _ _ => rfl⟩
  | lrcCheck din =>
    by_cases hlen : 1 ≤ din.length
    · by_cases heq : lrcOf (slice din 0 (din.length - 1)) = byteAt din (din.length - 1)
      · exact ⟨.success, fun _ _ => execLrcCheck_match hlen heq⟩
      · exact ⟨.failure .checksumMismatch, fun _ _ => execLrcCheck_mismatch hlen heq⟩
    · obtain rfl : din = [] := List.length_eq_zero_iff.mp (by omega)
      exact ⟨.failure .tooShort, fun t _ => execLrcCheck_short t⟩
  | crcInit => exact ⟨{ Overwrite.success with crc := some crcInitValue }, fun _ _ => rfl⟩
  | crcFeed din =>
    refine ⟨{ Overwrite.success with crc := some (crcFold s.params.crcMode s.crc din) }, fun t ht => ?_⟩
    rw [← ht.params, ← ht.crc (show Op.crcFeed ∈ feedingOps by decide)]
    rfl
  | crcCalc din =>
    refine ⟨{ Overwrite.success with
      crc := some (crcFold s.params.crcMode crcInitValue din)
      out := some (lowFirst (crc16 s.params.crcMode din)) }, fun t ht => ?_⟩
    rw [← ht.params]
    rfl
  | crcCheck din =>
    by_cases hlen : 2 ≤ din.length
    · by_cases heq : crc16 s.params.crcMode (slice din 0 (din.length - 2)) =
          littleEndian (byteAt din (din.length - 2)) (byteAt din (din.length - 1))
      · exact ⟨.success, fun t ht => execCrcCheck_match hlen (by rw [ht.params, heq])⟩
      · exact ⟨.failure .checksumMismatch, fun t ht => execCrcCheck_mismatch hlen (by rw [ht.params]; exact heq)⟩
    · exact ⟨.failure .tooShort, fun t _ => execCrcCheck_short (by omega)⟩
  | lrcEnc din =>
    by_cases hlen : din.length ≤ lrcMaxPayload
    · refine ⟨{ Overwrite.success with out := some (lrcFrame s.params din) }, fun t ht => ?_⟩
      rw [← ht.params]
      exact execLrcEnc_fits hlen
    · exact ⟨.failure .payloadTooLong, fun t _ => execLrcEnc_tooLong (by omega)⟩
  | lrcDec din =>
    refine ⟨.ofParsed din (parseLrcFrame s.params din), fun t ht => ?_⟩
    rw [Overwrite.apply_ofParsed, ← ht.params]
    rfl
  | crcEnc cmd cls ident din =>
    by_cases hlen : din.length + s.params.lenBias.val ≤ 255
    · refine ⟨{ Overwrite.success with out := some (crcFrame s.params cmd cls ident din) }, fun t ht => ?_⟩
      rw [← ht.params] at hlen ⊢
      exact execCrcEnc_fits hlen
    · exact ⟨.failure .payloadTooLong, fun t ht => execCrcEnc_tooLong (by rw [ht.params]; omega)⟩
  | crcDec din =>
    refine ⟨.ofParsed din (parseCrcFrame s.params din), fun t ht => ?_⟩
    rw [Overwrite.apply_ofParsed, ← ht.params]
    rfl
  | rxClear => exact ⟨{ Overwrite.success with rxbuf := some [] }, fun _ _ => rfl⟩
  | rxAppend din =>
    have hfeed : Op.rxAppend ∈ feedingOps := by decide
    by_cases hlen : s.rxbuf.length + din.length ≤ s.params.rxbufCap
    · refine ⟨{ Overwrite.success with rxbuf := some (s.rxbuf ++ din) }, fun t ht => ?_⟩
      rw [← ht.params, ← ht.rxbuf hfeed] at hlen
      rw [← ht.rxbuf hfeed]
      exact execRxAppend_fits hlen
    · refine ⟨.failure .rxOverflow, fun t ht => execRxAppend_overflow ?_⟩
      rw [ht.params, ht.rxbuf hfeed]
      omega

/-! ### Repeating a command -/

theorem exec_idempotent {i : Instr} {s t : State} (hop : i.op ∉ feedingOps) (h : exec i s = .next t) :
    exec i t = .next t := by
  obtain ⟨w, hw⟩ := exec_eq_overwrite i s
  obtain rfl : w.apply s = t := Host.Outcome.next.inj ((hw s (.refl i s)).symm.trans h)
  have hagain := hw (w.apply s) (.of_params_eq hop (w.apply_params s))
  rwa [Overwrite.apply_apply] at hagain

theorem runCommand_of_decode_ok {cw : Word} {din : List Byte} {s : State} {i : Instr}
    (h : decode s.params cw din = .ok i) : runCommand cw din s = exec i s := by
  rw [runCommand, h]

theorem runCommand_of_decode_error {cw : Word} {din : List Byte} {s : State} {e : ErrCode}
    (h : decode s.params cw din = .error e) : runCommand cw din s = .next (s.earlyError e) := by
  rw [runCommand, h]

theorem instr_op (o : Op) (cw : Word) (din : List Byte) : (o.instr cw din).op = o := by cases o <;> rfl

/-- A value of `OP` that selects an operation is that operation's code (R76). -/
theorem toNat_eq_code_of_opOfCode {b : Byte} {o : Op} (h : opOfCode b = some o) : b.toNat = o.code.toNat := by
  unfold opOfCode at h
  split at h <;> cases h <;> assumption

theorem opField_toNat (cw : Word) : (opField cw).toNat = cw.toNat % 256 := by
  simp [opField, BitVec.extractLsb'_toNat]

/-- `CW[7:0]` of a word that decodes is the code of the command's operation (R71, R76). -/
theorem toNat_mod_eq_code_of_decode {p : Params} {cw : Word} {din : List Byte} {i : Instr}
    (h : decode p cw din = .ok i) : cw.toNat % 256 = i.op.code.toNat := by
  unfold decode at h
  split at h
  · cases h
  · next o ho =>
    split_ifs at h
    cases h
    rw [instr_op, ← opField_toNat, toNat_eq_code_of_opOfCode ho]

theorem code_mem_of_mem_feedingOps {o : Op} (h : o ∈ feedingOps) : o.code.toNat ∈ [0x02, 0x09, 0x19] := by
  cases o <;> revert h <;> decide

theorem runCommand_idempotent {cw : Word} {din : List Byte} {s t : State}
    (hcw : cw.toNat % 256 ∉ [0x02, 0x09, 0x19]) (h : runCommand cw din s = .next t) :
    runCommand cw din t = .next t := by
  cases hd : decode s.params cw din with
  | error e =>
    rw [runCommand_of_decode_error hd] at h
    cases h
    exact runCommand_of_decode_error hd
  | ok i =>
    rw [runCommand_of_decode_ok hd] at h
    have hop : i.op ∉ feedingOps := fun hi =>
      hcw (toNat_mod_eq_code_of_decode hd ▸ code_mem_of_mem_feedingOps hi)
    rw [← (exec_effect h).keepsRest.params] at hd
    rw [runCommand_of_decode_ok hd, exec_idempotent hop h]

/-! ### Events in the order issued -/

theorem exec_setInput (i : Instr) (s : State) :
    ∃ t : State, ∀ evs, exec i { s with input := evs } = .next { t with input := evs } := by
  obtain ⟨w, hw⟩ := exec_eq_overwrite i s
  exact ⟨w.apply s, fun evs => by rw [hw _ (.setInput i s evs), Overwrite.apply_setInput]⟩

/-- An event neither sees nor changes what the host has issued after it. -/
theorem handleEvent_setInput (ev : HostEvent) (s : State) :
    ∃ t : State, ∀ evs, handleEvent ev { s with input := evs } = .next { t with input := evs } := by
  cases ev with
  | rst => exact ⟨s.applyReset, fun _ => rfl⟩
  | command cw din =>
    cases hd : decode s.params cw din with
    | error e => exact ⟨s.earlyError e, fun _ => runCommand_of_decode_error hd⟩
    | ok i =>
      obtain ⟨t, ht⟩ := exec_setInput i s
      exact ⟨t, fun evs => (runCommand_of_decode_ok (s := { s with input := evs }) hd).trans (ht evs)⟩

/-- A step takes the oldest event the host has issued (R55, R60). -/
theorem step_of_input_cons {s : State} {ev : HostEvent} {rest : List HostEvent} (h : s.input = ev :: rest) :
    step s = handleEvent ev { s with input := rest } := by
  rw [step, takeEvent_cons h]

theorem run_succ_of_step {s t : State} (k : Nat) (h : step s = .next t) :
    Sys2Proof.core.run (k + 1) s = Sys2Proof.core.run k t := by
  have hcore : Sys2Proof.core.step s = .next t := h
  simp only [Host.Core.run, hcore]

theorem run_add_of_run {j : Nat} {s t : State} (k : Nat) (h : Sys2Proof.core.run j s = .next t) :
    Sys2Proof.core.run (j + k) s = Sys2Proof.core.run k t := by
  induction j generalizing s with
  | zero =>
    cases h
    rw [Nat.zero_add]
  | succ j ih =>
    simp only [Host.Core.run] at h
    split at h
    · next u hu => rw [Nat.succ_add, run_succ_of_step (j + k) hu, ih h]
    · cases h
    · cases h

/-- As many steps as there are events in a batch take that batch, whatever was issued after it, and what it leaves does
not depend on that. -/
theorem run_takes_batch (batch : List HostEvent) (s : State) :
    ∃ t : State, ∀ later,
      Sys2Proof.core.run batch.length { s with input := batch ++ later } = .next { t with input := later } := by
  induction batch generalizing s with
  | nil => exact ⟨s, fun _ => rfl⟩
  | cons ev rest ih =>
    obtain ⟨u, hu⟩ := handleEvent_setInput ev s
    obtain ⟨t, ht⟩ := ih u
    refine ⟨t, fun later => ?_⟩
    have hstep : step { s with input := ev :: rest ++ later } = .next { u with input := rest ++ later } :=
      (step_of_input_cons rfl).trans (hu (rest ++ later))
    exact (run_succ_of_step rest.length hstep).trans (ht later)

/-! ### The obligations -/

/-- Settles O21: what the first batch leaves does not depend on the second, and runs compose. -/
theorem eventsTakeEffectInIssueOrder : Obligations.EventsTakeEffectInIssueOrder := by
  intro s first second
  obtain ⟨t, ht⟩ := run_takes_batch first s
  exact ⟨{ t with input := [] }, by simpa using ht [], rfl, run_add_of_run second.length (ht second)⟩

/-- Settles O23: a command that does not feed writes values that only the parameters decide; each of the three others,
fed one byte after reset, shows the second issue in its own register. -/
theorem repeatedCommandsAreIdempotent : Obligations.RepeatedCommandsAreIdempotent := by
  refine ⟨fun cw din s t => runCommand_idempotent, ?_⟩
  simp only [List.forall_mem_cons]
  refine ⟨?_, ?_, ?_, nofun⟩
  · refine ⟨[0x01#8], State.reset, _, _, rfl, rfl, fun h => ?_⟩
    exact absurd (congrArg State.lrc h) (by decide)
  · refine ⟨[0x01#8], State.reset, _, _, rfl, rfl, fun h => ?_⟩
    exact absurd (congrArg State.crc h) (by decide +kernel)
  · refine ⟨[0x01#8], State.reset, _, _, rfl, rfl, fun h => ?_⟩
    exact absurd (congrArg State.rxbuf h) (by decide)

/-- Settles O8: the step takes the command, and running it is decoding it first. -/
theorem stepRunsTheDecodedCommand : Obligations.StepRunsTheDecodedCommand := by
  intro s cw din rest hin
  have hstep : step s = runCommand cw din { s with input := rest } := step_of_input_cons hin
  exact ⟨fun i hd => hstep.trans (runCommand_of_decode_ok hd),
    fun e hd => hstep.trans (runCommand_of_decode_error hd)⟩

end Sys2Proof.Machine
end

section
/-! SUPPORT. The statements about the command encoding (30_encoding.md part A). Two lemmas carry them: what a decode that
succeeds has checked (`decode_eq_ok_iff`), and that a word and operand which pass those checks are the encoding of the
command made of them (`encode_instr`). -/
namespace Sys2Proof.Machine

/-! ### The opcode map, both ways (R76, R78) -/

@[simp] theorem opOfCode_code (o : Op) : opOfCode o.code = some o := by cases o <;> rfl

theorem opOfCode_eq_some_iff {b : Byte} {o : Op} : opOfCode b = some o ↔ b = o.code :=
  ⟨fun h => BitVec.eq_of_toNat_eq (toNat_eq_code_of_opOfCode h), fun h => h ▸ opOfCode_code o⟩

/-- The assigned values of `OP`, as numbers. -/
theorem opOfCode_eq_none_iff {b : Byte} : opOfCode b = none ↔
    b.toNat ∉ [0x00, 0x01, 0x02, 0x03, 0x04, 0x08, 0x09, 0x0A, 0x0B, 0x10, 0x11, 0x12, 0x13, 0x18, 0x19] := by
  unfold opOfCode
  split <;> simp_all

theorem code_toNat_mem (o : Op) : o.code.toNat ∈
    [0x00, 0x01, 0x02, 0x03, 0x04, 0x08, 0x09, 0x0A, 0x0B, 0x10, 0x11, 0x12, 0x13, 0x18, 0x19] := by
  cases o <;> decide

theorem format_eq_e_iff (o : Op) : o.format = .e ↔ o.code.toNat = 0x12 := by cases o <;> decide

theorem format_eq_n_iff (o : Op) : o.format = .n ↔ o.code.toNat ∈ [0x00, 0x01, 0x08, 0x18] := by
  cases o <;> decide

theorem reservedField_eq_zero_iff (cw : Word) : reservedField cw = 0#24 ↔ cw.toNat / 256 = 0 := by
  have hcw := cw.isLt
  rw [← BitVec.toNat_inj, reservedField, BitVec.extractLsb'_toNat, Nat.shiftRight_eq_div_pow]
  simp only [BitVec.toNat_ofNat]
  omega

/-! ### The encoder -/

/-- Formats N and D: the command word is the opcode alone, and format N has no operand (R72, R73). -/
theorem encode_instr_of_ne_e {o : Op} {cw : Word} {din : List Byte} (he : o.format ≠ .e)
    (hn : o.format = .n → din = []) : encode (o.instr cw din) = (plainWord o, din) := by
  cases o with
  | nop | lrcInit | crcInit | rxClear => rw [hn rfl]; rfl
  | crcEnc => exact absurd rfl he
  | _ => rfl

/-- A command word and operand that meet the rules of an operation's format encode the command made of them. -/
theorem encode_instr {o : Op} {cw : Word} {din : List Byte} (hop : opField cw = o.code)
    (hr : o.format ≠ .e → reservedField cw = 0#24) (hn : o.format = .n → din = []) :
    encode (o.instr cw din) = (cw, din) := by
  cases o with
  | crcEnc =>
    calc encode (Op.crcEnc.instr cw din)
      _ = (fcField cw ++ fbField cw ++ faField cw ++ opField cw, din) := by rw [hop]; rfl
      _ = (cw, din) := by rw [word_eq_fields]
  | _ => rw [encode_instr_of_ne_e (by decide) hn, plainWord, ← hr (by decide), ← hop, word_eq_reserved_op]

theorem encodeShape (i : Instr) : Laws.EncodeShape.Statement i := by
  cases i with
  | nop => exact Laws.EncodeShape.nop
  | lrcInit => exact Laws.EncodeShape.lrcInit
  | lrcFeed din => exact Laws.EncodeShape.lrcFeed din
  | lrcCalc din => exact Laws.EncodeShape.lrcCalc din
  | lrcCheck din => exact Laws.EncodeShape.lrcCheck din
  | crcInit => exact Laws.EncodeShape.crcInit
  | crcFeed din => exact Laws.EncodeShape.crcFeed din
  | crcCalc din => exact Laws.EncodeShape.crcCalc din
  | crcCheck din => exact Laws.EncodeShape.crcCheck din
  | lrcEnc din => exact Laws.EncodeShape.lrcEnc din
  | lrcDec din => exact Laws.EncodeShape.lrcDec din
  | crcEnc cmd cls ident din => exact Laws.EncodeShape.crcEnc cmd cls ident din
  | crcDec din => exact Laws.EncodeShape.crcDec din
  | rxClear => exact Laws.EncodeShape.rxClear
  | rxAppend din => exact Laws.EncodeShape.rxAppend din

/-- The operand fields of an encoding are those of the command. -/
theorem instr_encode (i : Instr) : i.op.instr (encode i).1 (encode i).2 = i := by
  cases i with
  | crcEnc cmd cls ident din => simp [Instr.op, Op.instr, encode]
  | _ => rfl

/-- The operand of a decoded command is the operand it was issued with; format N has the empty one. -/
theorem instr_din {o : Op} {cw : Word} {din : List Byte} (hn : o.format = .n → din = []) :
    (o.instr cw din).din = din := by
  cases o with
  | nop | lrcInit | crcInit | rxClear => exact (hn rfl).symm
  | _ => rfl

/-! ### The decode procedure (R77) -/

theorem decode_of_unassigned {p : Params} {cw : Word} {din : List Byte} (h : opOfCode (opField cw) = none) :
    decode p cw din = .error .illegalOp := by
  rw [decode, h]

theorem decode_of_assigned {p : Params} {cw : Word} {din : List Byte} {o : Op} (h : opField cw = o.code) :
    decode p cw din =
      if (o.format ≠ .e ∧ reservedField cw ≠ 0#24) ∨ (o.format = .n ∧ din ≠ []) then .error .illegalOp
      else if p.dinMax < din.length then .error .operandTooLong
      else .ok (o.instr cw din) := by
  rw [decode, h, opOfCode_code, ite_or]
  simp only [ne_eq, List.length_eq_zero_iff, gt_iff_lt]

/-- Decoding succeeds on an assigned opcode whose word and operand keep its format's rules and the bound on `|DIN|`. -/
theorem decode_eq_ok_iff {p : Params} {cw : Word} {din : List Byte} {i : Instr} :
    decode p cw din = .ok i ↔ ∃ o : Op, opField cw = o.code ∧ (o.format ≠ .e → reservedField cw = 0#24) ∧
      (o.format = .n → din = []) ∧ din.length ≤ p.dinMax ∧ o.instr cw din = i := by
  constructor
  · intro h
    cases hop : opOfCode (opField cw) with
    | none => rw [decode_of_unassigned hop] at h; cases h
    | some o =>
      have hcode := opOfCode_eq_some_iff.mp hop
      rw [decode_of_assigned hcode] at h
      split_ifs at h with hillegal hlen
      rw [not_or, not_and_not_right, not_and_not_right] at hillegal
      exact ⟨o, hcode, hillegal.1, hillegal.2, not_lt.mp hlen, Except.ok.inj h⟩
  · rintro ⟨o, hcode, hr, hn, hlen, rfl⟩
    rw [decode_of_assigned hcode, if_neg (by rw [not_or, not_and_not_right, not_and_not_right]; exact ⟨hr, hn⟩),
      if_neg (not_lt.mpr hlen)]

/-! ### The obligations on the encoding -/

/-- Settles O1: an encoding has its operation's opcode and keeps its format's rules. -/
theorem decodeOfEncodeIsTheCommand : Obligations.DecodeOfEncodeIsTheCommand := by
  intro p i hwf
  obtain ⟨hop, hdin, hr, hn⟩ := encodeShape i
  exact decode_eq_ok_iff.mpr ⟨i.op, hop, hr, hn, hdin ▸ of_decide_eq_true hwf, instr_encode i⟩

/-- Settles O2: what the decode procedure has checked makes the word and operand the encoding. -/
theorem decodedWordIsItsEncoding : Obligations.DecodedWordIsItsEncoding := by
  intro p cw din i h
  obtain ⟨o, hop, hr, hn, hlen, rfl⟩ := decode_eq_ok_iff.mp h
  exact ⟨encode_instr hop hr hn, decide_eq_true ((instr_din hn).symm ▸ hlen)⟩

/-- Settles O3: the checks of the decode procedure, each read as a test on the number `CW`. -/
theorem decodeErrorsInListedOrder : Obligations.DecodeErrorsInListedOrder := by
  intro p cw din op unassigned badReserved badOperand illegal
  have hopNat : (opField cw).toNat = op := opField_toNat cw
  cases hop : opOfCode (opField cw) with
  | none =>
    have hunassigned : unassigned := by
      have hmem := opOfCode_eq_none_iff.mp hop
      simp only [hopNat, List.mem_cons, List.not_mem_nil, or_false] at hmem
      simp only [unassigned]
      omega
    exact ⟨fun _ => decode_of_unassigned hop, fun h => absurd (.inl hunassigned) h,
      fun h => absurd (.inl hunassigned) h⟩
  | some o =>
    have hcode := opOfCode_eq_some_iff.mp hop
    rw [hcode] at hopNat
    have hassigned : ¬ unassigned := by
      have hmem := code_toNat_mem o
      simp only [hopNat, List.mem_cons, List.not_mem_nil, or_false] at hmem
      simp only [unassigned]
      omega
    have hillegal : illegal ↔ (o.format ≠ .e ∧ reservedField cw ≠ 0#24) ∨ (o.format = .n ∧ din ≠ []) := by
      simp [illegal, hassigned, badReserved, badOperand, format_eq_e_iff, format_eq_n_iff, hopNat,
        reservedField_eq_zero_iff]
    rw [hillegal, decode_of_assigned hcode]
    refine ⟨fun h => if_pos h, fun h hlen => ?_, fun h hlen => ?_⟩
    · rw [if_neg h, if_pos hlen]
    · rw [if_neg h, if_neg (not_lt.mpr hlen)]
      rw [not_or, not_and_not_right, not_and_not_right] at h
      exact ⟨_, rfl, by rw [encode_instr hcode h.1 h.2]⟩

/-- Settles O4, by running the decoder on each word. -/
theorem sampleWordsDecode : Obligations.SampleWordsDecode := ⟨rfl, rfl, rfl, rfl, rfl, rfl⟩

/-- Settles O5: an unassigned opcode is an early error, and the map is run on all 256 values. -/
theorem unassignedOpcodeWritesStatusOnly : Obligations.UnassignedOpcodeWritesStatusOnly := by
  refine ⟨fun s cw din hop => ?_, by decide +kernel⟩
  rw [← opField_toNat] at hop
  exact runCommand_of_decode_error (decode_of_unassigned (opOfCode_eq_none_iff.mpr hop))

end Sys2Proof.Machine
end

section
/-! SUPPORT. The statements about the assembler (30_encoding.md R91, R92). A line of each format is cut into tokens once,
whatever its words are, and reading the tokens back gives the command or the pseudo-instruction that was written. -/
namespace Sys2Proof.Machine

/-! ### Words and what ends them -/

/-- Characters that a name may have. -/
def isNameChar (c : Char) : Bool := c.isUpper || c == '_'

/-- A name is a word: nothing that ends a word is an upper-case letter or an underscore. -/
theorem word_of_all_isNameChar {w : List Char} (h : w.all isNameChar = true) : ∀ c ∈ w, IsWordChar c := by
  intro c hc
  have hname : isNameChar c = true := List.all_eq_true.mp h c hc
  have hne (d : Char) (hd : isNameChar d = false) : c ≠ d := by
    rintro rfl
    exact Bool.false_ne_true (hd.symm.trans hname)
  exact ⟨hne ';' rfl, not_or.mpr ⟨hne ' ' rfl, hne '\t' rfl⟩, hne openBrace rfl, hne closeBrace rfl, hne ',' rfl⟩

theorem mnemonic_word (o : Op) : ∀ c ∈ mnemonic o, IsWordChar c :=
  word_of_all_isNameChar (by cases o <;> decide)

theorem mnemonic_ne_nil (o : Op) : mnemonic o ≠ [] := by cases o <;> decide

theorem hexLiteral_word (b : Byte) : ∀ c ∈ hexLiteral b, IsWordChar c := by
  rw [hexLiteral, List.forall_mem_cons, List.forall_mem_cons]
  unfold IsWordChar
  exact ⟨by decide, by decide, hexByte_word b⟩

theorem readHexLiteral_hexLiteral (b : Byte) : readHexLiteral (hexLiteral b) = some b := readHexByte_hexByte b

section
variable {w : List Char} (hw : ∀ c ∈ w, IsWordChar c) (hne : w ≠ [])
include hw hne

theorem tokens_word_end : tokens [] w = [.word w] := by
  have h := tokens_word w [] [] hw
  rwa [List.append_nil, List.nil_append, tokens_nil, flushWord_ne_nil hne] at h

theorem tokens_word_space (rest : List Char) : tokens [] (w ++ ' ' :: rest) = .word w :: tokens [] rest := by
  rw [tokens_word w _ _ hw, List.nil_append, tokens_space, flushWord_ne_nil hne]

theorem tokens_word_comma_space (rest : List Char) :
    tokens [] (w ++ ',' :: ' ' :: rest) = .word w :: .comma :: tokens [] rest := by
  rw [tokens_word w _ _ hw, List.nil_append, tokens_comma, flushWord_ne_nil hne, tokens_space, flushWord_nil]

/-! ### Lines with a word alone, and with a word and a braced list -/

theorem assembleLine_word {is : List Instr} (h : readPlain w = some is) : assembleLine w = some (is.map encode) := by
  rw [assembleLine, tokens_word_end hw hne, parseLine, h, Option.map_some]

theorem assembleLine_word_bytes {bytes : List Byte} {is : List Instr} (h : readBraced w bytes = some is) :
    assembleLine (w ++ ' ' :: bytesText bytes) = some (is.map encode) := by
  rw [assembleLine, tokens_word_space hw hne, tokens_bytesText, parseLine, readBytes_words, Option.bind_some, h,
    Option.map_some]

end

/-! ### The three formats (R91) -/

theorem assembleLine_plainText {o : Op} (h : o.format = .n) :
    assembleLine (plainText o) = some [encode (o.instr 0#32 [])] := by
  refine assembleLine_word (mnemonic_word o) (mnemonic_ne_nil o) (is := [o.instr 0#32 []]) ?_
  simp only [readPlain, opOfMnemonic_mnemonic, h, if_true]

theorem assembleLine_bracedText {o : Op} (din : List Byte) (h : o.format = .d) :
    assembleLine (bracedText o din) = some [encode (o.instr 0#32 din)] := by
  refine assembleLine_word_bytes (mnemonic_word o) (mnemonic_ne_nil o) (is := [o.instr 0#32 din]) ?_
  simp only [readBraced, opOfMnemonic_mnemonic, h, if_true]

theorem readHeaded_crcEnc (cmd cls ident : Byte) (din : List Byte) :
    readHeaded (mnemonic .crcEnc) (hexLiteral cmd) (hexLiteral cls) (hexLiteral ident) din =
      some [.crcEnc cmd cls ident din] := by
  rw [readHeaded, if_pos (opOfMnemonic_mnemonic _)]
  simp only [readHexLiteral_hexLiteral]

theorem tokens_asmText_crcEnc (cmd cls ident : Byte) (din : List Byte) :
    tokens [] (asmText (.crcEnc cmd cls ident din)) =
      .word (mnemonic .crcEnc) :: .word (hexLiteral cmd) :: .comma :: .word (hexLiteral cls) :: .comma ::
        .word (hexLiteral ident) :: .comma :: .openB :: (din.map (fun b => Token.word (hexByte b)) ++ [.closeB]) := by
  have hlit (b : Byte) (rest : List Char) :
      tokens [] (hexLiteral b ++ ',' :: ' ' :: rest) = .word (hexLiteral b) :: .comma :: tokens [] rest :=
    tokens_word_comma_space (hexLiteral_word b) (by simp [hexLiteral]) rest
  simp only [asmText, List.append_assoc, List.cons_append]
  rw [tokens_word_space (mnemonic_word _) (mnemonic_ne_nil _), hlit, hlit, hlit, tokens_bytesText]

theorem assembleLine_asmText_crcEnc (cmd cls ident : Byte) (din : List Byte) :
    assembleLine (asmText (.crcEnc cmd cls ident din)) = some [encode (.crcEnc cmd cls ident din)] := by
  rw [assembleLine, tokens_asmText_crcEnc, parseLine, readBytes_words, Option.bind_some, readHeaded_crcEnc]
  rfl

/-! ### The pseudo-instructions (R92) -/

theorem assembleLine_pseudoText (q : Pseudo) : assembleLine (pseudoText q) = some ((expandPseudo q).map encode) := by
  cases q with
  | lrcRestart bytes => exact assembleLine_word_bytes (word_of_all_isNameChar rfl) (by decide) rfl
  | crcRestart bytes => exact assembleLine_word_bytes (word_of_all_isNameChar rfl) (by decide) rfl
  | rxFlush => exact assembleLine_word (word_of_all_isNameChar rfl) (by decide) rfl
  | rxLoad bytes => exact assembleLine_word_bytes (word_of_all_isNameChar rfl) (by decide) rfl

/-- A list of two commands is the one, then the other. -/
theorem execAll_pair {i j : Instr} {s t u : State} (hi : exec i s = .next t) (hj : exec j t = .next u) :
    execAll [i, j] s = .next u := by
  rw [execAll_cons_next hi, execAll_cons_next hj, execAll_nil]

/-! ### The obligations on the assembler -/

/-- Settles O6, format by format. -/
theorem assemblingTextGivesTheEncoding : Obligations.AssemblingTextGivesTheEncoding := by
  intro i
  cases i with
  | nop | lrcInit | crcInit | rxClear => exact assembleLine_plainText rfl
  | crcEnc cmd cls ident din => exact assembleLine_asmText_crcEnc cmd cls ident din
  | _ => exact assembleLine_bracedText _ rfl

/-- Settles O7: the text of each is read back as its expansion, whose commands then run one after the other. -/
theorem pseudoInstructionEffects : Obligations.PseudoInstructionEffects := by
  refine ⟨assembleLine_pseudoText, fun s bytes => ⟨?_, ?_, ?_, fun hfit => ?_, fun hfull => ?_⟩⟩
  · exact execAll_pair (exec_lrcInit s) (exec_lrcFeed bytes _)
  · exact execAll_pair (exec_crcInit s) (exec_crcFeed bytes _)
  · exact execAll_cons_next (exec_rxClear s)
  · refine execAll_pair (exec_rxClear s) (execRxAppend_fits ?_)
    simpa using hfit
  · refine execAll_pair (exec_rxClear s) (execRxAppend_overflow ?_)
    simpa using hfull

end Sys2Proof.Machine
end

section
/-! SUPPORT. Soundness of the two frame decoders (30_encoding.md R81, R88). A parser that finds a frame was given the frame
that the encoder builds from what it found; what the decode commands accept is read off that. -/
namespace Sys2Proof.Machine

/-! ### Fields of packed values, read back -/

theorem lo8_append (hi lo : Byte) : lo8 (hi ++ lo) = lo := by
  rw [lo8, extract_append_low _ _ _ (by omega), BitVec.extractLsb'_eq_self]

theorem hi8_append (hi lo : Byte) : hi8 (hi ++ lo) = hi := by
  rw [hi8, extract_append_high _ _ _ (by omega), BitVec.extractLsb'_eq_self]

theorem lowFirst_littleEndian (lo hi : Byte) : lowFirst (littleEndian lo hi) = [lo, hi] := by
  rw [littleEndian_eq_append, lowFirst, lo8_append, hi8_append]

/-- Writing a LEN big-endian gives back the two bytes it was read from. -/
theorem ofNat_bigEndianLen (hi lo : Byte) : BitVec.ofNat 16 (bigEndianLen hi lo) = hi ++ lo := by
  have hhi := hi.isLt
  have hlo := lo.isLt
  apply BitVec.eq_of_toNat_eq
  rw [BitVec.toNat_append, ← Nat.shiftLeft_add_eq_or_of_lt hlo, Nat.shiftLeft_eq, BitVec.toNat_ofNat, bigEndianLen]
  omega

theorem bigEndianLen_le (hi lo : Byte) : bigEndianLen hi lo ≤ 65535 := by
  have hhi := hi.isLt
  have hlo := lo.isLt
  unfold bigEndianLen
  omega

/-- A packed word is its four bytes, the first lowest (R34). -/
theorem packBytes_eq_append (b0 b1 b2 b3 : Byte) : packBytes b0 b1 b2 b3 = b3 ++ b2 ++ b1 ++ b0 := by
  apply BitVec.eq_of_getLsbD_eq
  intro k hk
  simp only [packBytes, BitVec.getLsbD_append, BitVec.getLsbD_or, BitVec.getLsbD_setWidth, BitVec.getLsbD_shiftLeft]
  grind

/-- The bytes of a packed word, read back as `FRM`'s fields are. -/
theorem packBytes_fields (b0 b1 b2 b3 : Byte) :
    (packBytes b0 b1 b2 b3).extractLsb' 0 8 = b0 ∧ (packBytes b0 b1 b2 b3).extractLsb' 8 8 = b1 ∧
      (packBytes b0 b1 b2 b3).extractLsb' 16 8 = b2 ∧ (packBytes b0 b1 b2 b3).extractLsb' 24 8 = b3 := by
  rw [packBytes_eq_append]
  exact ⟨opField_append b3 b2 b1 b0, faField_append b3 b2 b1 b0, fbField_append b3 b2 b1 b0,
    fcField_append b3 b2 b1 b0⟩

/-! ### What a parser accepts -/

theorem exists_snoc_two_of_length {xs : List Byte} {n : Nat} (h : xs.length = n + 2) :
    ∃ (front : List Byte) (a b : Byte), xs = front ++ [a, b] ∧ front.length = n := by
  obtain ⟨a, b, hab⟩ := List.length_eq_two.mp (show (xs.drop n).length = 2 by simp [h])
  exact ⟨xs.take n, a, b, by rw [← hab, List.take_append_drop], by simp [h]⟩

theorem exists_cons_three_of_le_length {xs : List Byte} (h : 3 ≤ xs.length) :
    ∃ (a b c : Byte) (rest : List Byte), xs = a :: b :: c :: rest :=
  match xs, h with
  | a :: b :: c :: rest, _ => ⟨a, b, c, rest, rfl⟩

theorem parseLrcFrame_frame_form {p : Params} {din payload : List Byte} {fields : Word}
    (h : parseLrcFrame p din = .frame payload fields) :
    ∃ (hi lo etx x : Byte) (body : List Byte), din = p.stxByte :: hi :: lo :: body ++ [etx, x] ∧
      body.length = bigEndianLen hi lo := by
  unfold parseLrcFrame at h
  dsimp only at h
  split_ifs at h with hframed hlen
  obtain ⟨hlong, hstx⟩ := not_or.mp hframed
  obtain ⟨stx, hi, lo, rest, rfl⟩ := exists_cons_three_of_le_length (xs := din) (by omega)
  have hrest : rest.length = bigEndianLen hi lo + 2 := by
    simp only [List.length_cons, byteAt_cons_succ, byteAt_cons_zero] at hlen
    omega
  obtain ⟨body, etx, x, rfl, hbody⟩ := exists_snoc_two_of_length hrest
  exact ⟨hi, lo, etx, x, body, by rw [← not_not.mp hstx]; rfl, hbody⟩

/-- An LRC frame that the parser finds is the one LRC_ENC builds from the payload found (R88, R151). -/
theorem parseLrcFrame_eq_frame {p : Params} {din payload : List Byte} {fields : Word}
    (h : parseLrcFrame p din = .frame payload fields) :
    din = lrcFrame p payload ∧ payload.length ≤ 65535 ∧ fields = BitVec.ofNat 32 payload.length := by
  obtain ⟨hi, lo, etx, x, body, rfl, hlen⟩ := parseLrcFrame_frame_form h
  rw [parseLrcFrame_framed _ _ _ _ _ _ hlen] at h
  split_ifs at h with hetx hx
  obtain ⟨rfl, rfl⟩ := Parsed.frame.inj h
  refine ⟨?_, hlen ▸ bigEndianLen_le hi lo, rfl⟩
  rw [lrcFrame, lrcFrameBody, hlen, ofNat_bigEndianLen, hi8_append, lo8_append, ← not_not.mp hx, not_not.mp hetx]
  simp

theorem parseCrcFrame_frame_form {p : Params} {din payload : List Byte} {fields : Word}
    (h : parseCrcFrame p din = .frame payload fields) :
    ∃ (cmd len cls ident lo hi : Byte) (body : List Byte), din = cmd :: len :: cls :: ident :: body ++ [lo, hi] := by
  unfold parseCrcFrame at h
  dsimp only at h
  split_ifs at h with hlong
  obtain ⟨cmd, len, cls, more, rfl⟩ := exists_cons_three_of_le_length (xs := din) (by omega)
  have hmore : more.length = more.length - 3 + 1 + 2 := by
    simp only [List.length_cons] at hlong
    omega
  obtain ⟨front, lo, hi, rfl, hfront⟩ := exists_snoc_two_of_length hmore
  obtain ⟨ident, body, rfl⟩ := List.exists_of_length_succ front hfront
  exact ⟨cmd, len, cls, ident, lo, hi, body, rfl⟩

/-- A CRC frame that the parser finds is the one CRC_ENC builds from the payload and the header found, and its LEN is
the payload length plus `LEN_BIAS` (R88, R157). -/
theorem parseCrcFrame_eq_frame {p : Params} {din payload : List Byte} {fields : Word}
    (h : parseCrcFrame p din = .frame payload fields) :
    ∃ cmd len cls ident : Byte, din = crcFrame p cmd cls ident payload ∧ fields = packBytes cmd len cls ident ∧
      len.toNat = payload.length + p.lenBias.val := by
  obtain ⟨cmd, len, cls, ident, lo, hi, body, rfl⟩ := parseCrcFrame_frame_form h
  rw [parseCrcFrame_framed] at h
  split_ifs at h with hbad hcrc
  obtain ⟨rfl, rfl⟩ := Parsed.frame.inj h
  have hlen : len.toNat = body.length + p.lenBias.val := by omega
  refine ⟨cmd, len, cls, ident, ?_, rfl, hlen⟩
  rw [crcFrame, crcFrameBody, ← hlen, BitVec.ofNat_toNat, BitVec.setWidth_eq]
  simp only [List.cons_append, List.nil_append, not_not.mp hcrc, lowFirst_littleEndian]

/-! ### What a decode command accepts -/

/-- Of the three ends of a decode command, only that on a frame sets `OK`. -/
theorem finishDecode_ok {s : State} {din : List Byte} {r : Parsed} (h : (s.finishDecode din r).ok = true) :
    ∃ payload fields, r = .frame payload fields ∧
      s.finishDecode din r = ((s.setOut payload).setFrm fields).succeed := by
  cases r with
  | notFramed => cases h
  | bad e => cases h
  | frame payload fields => exact ⟨payload, fields, rfl, rfl⟩

theorem exec_lrcDec_ok {s t : State} {din : List Byte} (h : exec (.lrcDec din) s = .next t) (hok : t.ok = true) :
    ∃ payload fields, parseLrcFrame s.params din = .frame payload fields ∧
      t = ((s.setOut payload).setFrm fields).succeed := by
  obtain rfl := Host.Outcome.next.inj h
  exact finishDecode_ok hok

theorem exec_crcDec_ok {s t : State} {din : List Byte} (h : exec (.crcDec din) s = .next t) (hok : t.ok = true) :
    ∃ payload fields, parseCrcFrame s.params din = .frame payload fields ∧
      t = ((s.setOut payload).setFrm fields).succeed := by
  obtain rfl := Host.Outcome.next.inj h
  exact finishDecode_ok hok

/-! ### The LRC of an LRC frame (R81) -/

theorem lrcOf_concat (xs : List Byte) (x : Byte) : lrcOf (xs ++ [x]) = lrcOf xs ^^^ x := lrcFold_append 0#8 xs [x]

theorem lrcFrame_invariant (p : Params) (payload : List Byte) :
    (lrcFrame p payload).getLast? = some (lrcOf (lrcFrame p payload).dropLast) ∧
      lrcOf (lrcFrame p payload) = 0x00#8 := by
  rw [lrcFrame, List.getLast?_concat, List.dropLast_concat, lrcOf_concat, BitVec.xor_self]
  exact ⟨rfl, rfl⟩

/-! ### The obligations on built and accepted frames -/

/-- Settles O42: a built frame has the invariant, and an accepted input is a built frame. -/
theorem lrcFrameInvariant : Obligations.LrcFrameInvariant := by
  intro s t xs
  refine ⟨fun h hok => ?_, fun h hok => ?_⟩
  · obtain ⟨-, rfl⟩ | ⟨-, rfl⟩ := execLrcEnc_cases h
    · cases hok
    · exact lrcFrame_invariant s.params xs
  · obtain ⟨payload, fields, hparse, -⟩ := exec_lrcDec_ok h hok
    rw [(parseLrcFrame_eq_frame hparse).1]
    exact lrcFrame_invariant s.params payload

/-- Settles O45: the frame that the parser found is within LRC_ENC's bound, so LRC_ENC builds it. -/
theorem lrcDecAcceptsOnlyBuiltFrames : Obligations.LrcDecAcceptsOnlyBuiltFrames := by
  intro s t din h hok
  obtain ⟨payload, fields, hparse, rfl⟩ := exec_lrcDec_ok h hok
  obtain ⟨hdin, hlen, rfl⟩ := parseLrcFrame_eq_frame hparse
  refine ⟨hlen, ?_, _, execLrcEnc_fits hlen, rfl, hdin.symm⟩
  exact (BitVec.toNat_ofNat ..).trans (Nat.mod_eq_of_lt (by omega))

/-- Settles O51: the LEN byte that the parser found bounds the payload for CRC_ENC, which builds the same frame. -/
theorem crcDecAcceptsOnlyBuiltFrames : Obligations.CrcDecAcceptsOnlyBuiltFrames := by
  intro s t din h hok
  obtain ⟨payload, fields, hparse, rfl⟩ := exec_crcDec_ok h hok
  obtain ⟨cmd, len, cls, ident, hdin, rfl, hlen⟩ := parseCrcFrame_eq_frame hparse
  obtain ⟨hcmd, hlenField, hcls, hident⟩ := packBytes_fields cmd len cls ident
  have hfits : payload.length + s.params.lenBias.val ≤ 255 := hlen ▸ Nat.le_of_lt_succ len.isLt
  simp only [State.succeed_frm, State.setFrm_frm, hcmd, hcls, hident, hlenField]
  exact ⟨_, execCrcEnc_fits hfits, rfl, hdin.symm, hlen⟩

end Sys2Proof.Machine
end

section
/-! SUPPORT. The LRC unit (40_checksum.md R100 to R104). The one fact about the fold is that its accumulator comes
out as one more XOR (`lrcFold_eq_xor_lrcOf`); the laws of R104 and the effects of the four commands are read off it. -/
namespace Sys2Proof.Machine

/-! ### The LRC function (R104) -/

theorem lrcFold_eq_xor_lrcOf (acc : Byte) (xs : List Byte) : lrcFold acc xs = acc ^^^ lrcOf xs := by
  induction xs generalizing acc with
  | nil => exact BitVec.xor_zero.symm
  | cons b rest ih => rw [lrcOf, lrcFold_cons, lrcFold_cons, ih, ih (0x00#8 ^^^ b), BitVec.zero_xor, BitVec.xor_assoc]

theorem lrcOf_cons (b : Byte) (xs : List Byte) : lrcOf (b :: xs) = b ^^^ lrcOf xs := by
  rw [lrcOf, lrcFold_cons, BitVec.zero_xor, lrcFold_eq_xor_lrcOf]

theorem lrcOf_append (xs ys : List Byte) : lrcOf (xs ++ ys) = lrcOf xs ^^^ lrcOf ys :=
  (lrcFold_append 0x00#8 xs ys).trans (lrcFold_eq_xor_lrcOf (lrcOf xs) ys)

theorem lrcOf_perm {xs ys : List Byte} (h : xs.Perm ys) : lrcOf xs = lrcOf ys := by
  induction h with
  | nil => rfl
  | cons b _ ih => rw [lrcOf_cons, lrcOf_cons, ih]
  | swap a b xs => simp only [lrcOf_cons, ← BitVec.xor_assoc, BitVec.xor_comm a b]
  | trans _ _ ih₁ ih₂ => exact ih₁.trans ih₂

/-- A sequence ends in the LRC of what stands before exactly when its own LRC is 0 (R103, R104). -/
theorem lrcOf_concat_eq_zero_iff (xs : List Byte) (x : Byte) : lrcOf (xs ++ [x]) = 0x00#8 ↔ lrcOf xs = x := by
  rw [lrcOf_concat, BitVec.xor_eq_zero_iff]

/-- A change of one byte is the same change of the LRC. -/
theorem lrcOf_change_byte (xs ys : List Byte) (b d : Byte) :
    lrcOf (xs ++ [b ^^^ d] ++ ys) = lrcOf (xs ++ [b] ++ ys) ^^^ d := by
  rw [lrcOf_append, lrcOf_concat, lrcOf_append, lrcOf_concat]
  ac_rfl

theorem bit_ne_zero {k : Nat} (hk : k < 8) : 1#8 <<< k ≠ 0#8 := by
  revert k; decide

/-- Making one change in several bytes makes it in the LRC once for each of them. -/
theorem lrcOf_change_bytes (d : Byte) {xs : List Byte} {flips : List Bool} (h : flips.length = xs.length) :
    lrcOf (List.zipWith (fun b f => if f then b ^^^ d else b) xs flips) =
      lrcOf (List.replicate (flips.count true) d) ^^^ lrcOf xs := by
  induction xs generalizing flips with
  | nil =>
    rw [List.length_eq_zero_iff.mp h, List.zipWith_nil_left, List.count_nil, List.replicate_zero, BitVec.xor_self]
    rfl
  | cons b rest ih =>
    obtain ⟨f, flips, rfl⟩ := List.exists_of_length_succ flips h
    rw [List.zipWith_cons_cons, lrcOf_cons, lrcOf_cons, ih (Nat.succ.inj h)]
    cases f with
    | false =>
      rw [List.count_cons_of_ne Bool.false_ne_true, if_neg Bool.false_ne_true, ← BitVec.xor_assoc, BitVec.xor_comm b,
        BitVec.xor_assoc]
    | true =>
      rw [List.count_cons_self, List.replicate_succ, lrcOf_cons, if_pos rfl]
      ac_rfl

theorem lrcOf_replicate_of_even {n : Nat} (d : Byte) (h : n % 2 = 0) : lrcOf (List.replicate n d) = 0x00#8 := by
  obtain ⟨k, rfl⟩ := Nat.even_iff.mpr h
  rw [List.replicate_add, lrcOf_append, BitVec.xor_self]

/-! ### The commands of the LRC unit (R100 to R103) -/

/-- A word and operand that encode a command decode to it while the operand fits `DIN_MAX` (R70, R77). -/
theorem decode_of_encode_eq {p : Params} {i : Instr} {cw : Word} {din : List Byte}
    (hlen : i.din.length ≤ p.dinMax) (h : encode i = (cw, din)) : decode p cw din = .ok i := by
  have hdec := decodeOfEncodeIsTheCommand p i (decide_eq_true hlen)
  rwa [h] at hdec

theorem exec_lrcFeed_eq (xs : List Byte) (s : State) :
    exec (.lrcFeed xs) s = .next (s.setLrc (s.lrc ^^^ lrcOf xs)).succeed := by
  rw [exec_lrcFeed, execLrcFeed, lrcFold_eq_xor_lrcOf]

/-- LRC_CHECK of data and a last byte compares that byte with the LRC of the data (R103). -/
theorem exec_lrcCheck_concat (xs : List Byte) (x : Byte) (s : State) :
    exec (.lrcCheck (xs ++ [x])) s =
      .next (if lrcOf xs = x then s.succeed else s.raiseError .checksumMismatch) := by
  obtain ⟨hdata, hlast⟩ := slice_byteAt_snoc xs x
  have hlen : 1 ≤ (xs ++ [x]).length := by simp
  rw [exec_lrcCheck]
  split
  · next h => exact execLrcCheck_match hlen (by rwa [hdata, hlast])
  · next h => exact execLrcCheck_mismatch hlen (by rwa [hdata, hlast])

/-! ### The obligations on the LRC unit -/

/-- Settles O26: concatenation gives every law; a flipped bit is a change of one byte, flipped bits a change of many. -/
theorem lrcFunctionLaws : Obligations.LrcFunctionLaws := by
  refine ⟨rfl, lrcOf_cons, lrcOf_append, fun _ _ => lrcOf_perm, fun xs => (lrcOf_concat_eq_zero_iff xs _).mpr rfl,
    fun xs ys b k hk h => ?_, fun xs flips k hlen heven => ?_⟩
  · rw [lrcOf_change_byte] at h
    exact bit_ne_zero hk ((BitVec.xor_right_inj _).mp (h.trans BitVec.xor_zero.symm))
  · rw [lrcOf_change_bytes _ hlen, lrcOf_replicate_of_even _ heven, BitVec.zero_xor]

/-- Settles O30: the empty operand, then data and a last byte. -/
theorem lrcCheckComparesTheLastByte : Obligations.LrcCheckComparesTheLastByte := by
  intro s xs x
  refine ⟨fun hlen => decode_of_encode_eq hlen rfl, execLrcCheck_short s, fun h => ?_, fun h => ?_,
    (lrcOf_concat_eq_zero_iff xs x).symm⟩
  · rw [exec_lrcCheck_concat, if_pos h]; rfl
  · rw [exec_lrcCheck_concat, if_neg h]; rfl

/-- Settles O27: feeding after LRC_INIT folds from the empty sequence's LRC. -/
theorem lrcInitClearsTheAccumulator : Obligations.LrcInitClearsTheAccumulator := fun s =>
  ⟨decode_of_encode_eq (Nat.zero_le _) rfl, exec_lrcInit s, execAll_pair (exec_lrcInit s) (exec_lrcInit _),
    fun bytes => execAll_pair (exec_lrcInit s) (exec_lrcFeed bytes _)⟩

/-- Settles O28: two feeds are one feed of the concatenation, and the XOR of equal bytes cancels. -/
theorem lrcFeedFoldsTheOperand : Obligations.LrcFeedFoldsTheOperand := by
  intro s xs ys
  refine ⟨fun hlen => decode_of_encode_eq hlen rfl, exec_lrcFeed_eq xs s, ?_, ?_⟩
  · rw [execAll_pair (exec_lrcFeed_eq xs s) (exec_lrcFeed_eq ys _), exec_lrcFeed_eq, lrcOf_append, ← BitVec.xor_assoc]
    rfl
  · have hcancel : s.lrc ^^^ lrcOf xs ^^^ lrcOf xs = s.lrc := by rw [BitVec.xor_assoc, BitVec.xor_self, BitVec.xor_zero]
    rw [execAll_pair (exec_lrcFeed_eq xs s) (exec_lrcFeed_eq xs _), State.succeed_lrc, State.setLrc_lrc, hcancel]
    rfl

/-- Settles O29: the accumulator before the command is not read. -/
theorem lrcCalcReplacesTheAccumulator : Obligations.LrcCalcReplacesTheAccumulator := fun s xs =>
  ⟨fun hlen => decode_of_encode_eq hlen rfl, exec_lrcCalc xs s, exec_lrcCalc [] s⟩

end Sys2Proof.Machine
end

section
/-! SUPPORT. The CRC function (40_checksum.md R110, R115, R116). One bit of a register is a shift and a conditional XOR;
it is reflected and additive, and so are a byte and a sequence. The residue of mode `X25` is read off additivity. -/
namespace Sys2Proof.Machine

/-! ### Mode `X25` is mode `FALSE` reflected -/

theorem reverse_xor {w : Nat} (x y : BitVec w) : (x ^^^ y).reverse = x.reverse ^^^ y.reverse := by
  ext i hi
  simp [BitVec.getElem_reverse]

theorem reverse_ushiftRight_one (c : Half) : (c >>> 1).reverse = c.reverse <<< 1 := by
  apply BitVec.eq_of_getLsbD_eq
  intro i _
  rw [BitVec.getLsbD_reverse, BitVec.getMsbD_ushiftRight, BitVec.getLsbD_shiftLeft, BitVec.getLsbD_reverse,
    Bool.and_assoc]

theorem bitX25_reverse : Function.Semiconj BitVec.reverse bitX25 bitFalse := by
  intro c
  have hpoly : (0x8408#16).reverse = 0x1021#16 := by decide
  have hbit : c.reverse.getLsbD 15 = c.getLsbD 0 := BitVec.getLsbD_reverse
  rw [bitX25, bitFalse, hbit, ← reverse_ushiftRight_one, ← hpoly, ← reverse_xor]
  split <;> rfl

theorem reverse_setWidth_byte (b : Byte) : (b.setWidth 16).reverse = b.reverse.setWidth 16 <<< 8 := by
  ext i hi
  rw [BitVec.getElem_reverse, BitVec.getElem_shiftLeft, BitVec.getMsbD_setWidth, BitVec.getElem_setWidth,
    BitVec.getLsbD_reverse]
  by_cases h : i < 8
  · simp [h, show ¬ 16 - 8 ≤ i by omega]
  · simp [h, show 16 - 8 ≤ i by omega]

theorem crcStep_x25_reverse (c : Half) (b : Byte) :
    (crcStep .x25 c b).reverse = crcStep .ccittFalse c.reverse b.reverse := by
  rw [crcStep, crcStep, stepX25, (bitX25_reverse.iterate_right 8).eq, reverse_xor, reverse_setWidth_byte, stepFalse]

/-! ### Additivity -/

theorem ite_xor_ite {w : Nat} (p q : Bool) (x : BitVec w) :
    (if p ^^ q then x else 0#w) = (if p then x else 0#w) ^^^ (if q then x else 0#w) := by
  cases p <;> cases q <;> simp

theorem bitX25_eq_xor (c : Half) : bitX25 c = (c >>> 1) ^^^ if c.getLsbD 0 then 0x8408#16 else 0#16 := by
  rw [bitX25]; split <;> simp

theorem bitFalse_eq_xor (c : Half) : bitFalse c = (c <<< 1) ^^^ if c.getLsbD 15 then 0x1021#16 else 0#16 := by
  rw [bitFalse]; split <;> simp

theorem xor_xor_xor_comm {w : Nat} (a b c d : BitVec w) : a ^^^ b ^^^ (c ^^^ d) = a ^^^ c ^^^ (b ^^^ d) := by
  ac_rfl

theorem bitX25_xor : Function.Semiconj₂ bitX25 (· ^^^ ·) (· ^^^ ·) := by
  intro c d
  simp only [bitX25_eq_xor, BitVec.ushiftRight_xor_distrib, BitVec.getLsbD_xor, ite_xor_ite, xor_xor_xor_comm]

theorem bitFalse_xor : Function.Semiconj₂ bitFalse (· ^^^ ·) (· ^^^ ·) := by
  intro c d
  simp only [bitFalse_eq_xor, BitVec.shiftLeft_xor_distrib, BitVec.getLsbD_xor, ite_xor_ite, xor_xor_xor_comm]

theorem crcStep_xor (m : CrcMode) (c d : Half) (a b : Byte) :
    crcStep m (c ^^^ d) (a ^^^ b) = crcStep m c a ^^^ crcStep m d b := by
  cases m with
  | x25 =>
    rw [crcStep, stepX25, BitVec.setWidth_xor, xor_xor_xor_comm, (bitX25_xor.iterate 8).eq]; rfl
  | ccittFalse =>
    rw [crcStep, stepFalse, BitVec.setWidth_xor, BitVec.shiftLeft_xor_distrib, xor_xor_xor_comm,
      (bitFalse_xor.iterate 8).eq]; rfl

theorem crcFold_xor (m : CrcMode) (c d : Half) {xs ys : List Byte} (h : xs.length = ys.length) :
    crcFold m (c ^^^ d) (List.zipWith (fun a b => a ^^^ b) xs ys) = crcFold m c xs ^^^ crcFold m d ys := by
  induction xs generalizing c d ys with
  | nil => rw [List.length_eq_zero_iff.mp h.symm]; rfl
  | cons x xs ih =>
    obtain ⟨y, ys, rfl⟩ := List.exists_of_length_succ ys h.symm
    rw [List.zipWith_cons_cons, crcFold_cons, crcStep_xor, ih _ _ (Nat.succ.inj h), crcFold_cons, crcFold_cons]

/-! ### The residue of mode `X25` -/

theorem bitX25_ofNat_two_mul {n : Nat} (h : 2 * n < 2 ^ 16) : bitX25 (BitVec.ofNat 16 (2 * n)) = BitVec.ofNat 16 n := by
  have hbit : (BitVec.ofNat 16 (2 * n)).getLsbD 0 = false := by
    rw [BitVec.getLsbD_ofNat, Nat.testBit_zero]
    simp
  rw [bitX25, if_neg (by rw [hbit]; exact Bool.false_ne_true)]
  apply BitVec.eq_of_toNat_eq
  simp [Nat.shiftRight_eq_div_pow]
  omega

/-- While bit 0 is clear, mode `X25` only shifts. -/
theorem bitX25_iterate_ofNat (k n : Nat) (h : 2 ^ k * n < 2 ^ 16) :
    bitX25^[k] (BitVec.ofNat 16 (2 ^ k * n)) = BitVec.ofNat 16 n := by
  induction k with
  | zero => rw [Function.iterate_zero_apply, Nat.pow_zero, Nat.one_mul]
  | succ k ih =>
    have htwo : 2 ^ (k + 1) * n = 2 * (2 ^ k * n) := by rw [Nat.pow_succ', Nat.mul_assoc]
    rw [htwo] at h ⊢
    rw [Function.iterate_succ_apply, bitX25_ofNat_two_mul h, ih (by omega)]

/-- A register that holds the two bytes to come, low byte first, is cleared by them. -/
theorem crcFold_x25_littleEndian (lo hi : Byte) : crcFold .x25 (littleEndian lo hi) [lo, hi] = 0#16 := by
  have hlo : littleEndian lo hi ^^^ lo.setWidth 16 = littleEndian 0#8 hi := by
    rw [littleEndian_eq_append, littleEndian_eq_append, BitVec.setWidth_eq_append (by omega), BitVec.cast_eq,
      BitVec.xor_append, BitVec.xor_self]
    exact congrArg (· ++ 0#8) BitVec.xor_zero
  have hshift : littleEndian 0#8 hi = BitVec.ofNat 16 (2 ^ 8 * hi.toNat) := by
    apply BitVec.eq_of_toNat_eq
    rw [littleEndian_toNat, BitVec.toNat_ofNat, BitVec.toNat_ofNat]
    omega
  have hhi : BitVec.ofNat 16 hi.toNat ^^^ hi.setWidth 16 = 0#16 := by
    rw [BitVec.ofNat_toNat, BitVec.xor_self]
  rw [crcFold_cons, crcFold_cons, crcFold_nil, crcStep, stepX25, stepX25, hlo, hshift,
    bitX25_iterate_ofNat _ _ (by omega), hhi]
  rfl

theorem crcFold_x25_lowFirst (v : Half) : crcFold .x25 v (lowFirst v) = 0#16 := by
  have h := crcFold_x25_littleEndian (lo8 v) (hi8 v)
  rwa [littleEndian_lo8_hi8] at h

/-- By additivity, the final XOR's mask in the register comes out as the register after two zero bytes (R116). -/
theorem crcFold_x25_crcFin_lowFirst (v : Half) : crcFold .x25 (crcFin .x25 v) (lowFirst v) = 0xF0B8#16 :=
  calc crcFold .x25 (crcFin .x25 v) (lowFirst v)
    _ = crcFold .x25 (v ^^^ 0xFFFF#16) (List.zipWith (fun a b => a ^^^ b) (lowFirst v) [0#8, 0#8]) := by
      simp [crcFin, lowFirst]
    _ = crcFold .x25 v (lowFirst v) ^^^ crcFold .x25 0xFFFF#16 [0#8, 0#8] := crcFold_xor _ _ _ rfl
    _ = 0#16 ^^^ 0xF0B8#16 := congrArg₂ (· ^^^ ·) (crcFold_x25_lowFirst v) (by decide +kernel)
    _ = 0xF0B8#16 := BitVec.zero_xor

/-! ### The obligations on the CRC function -/

/-- Settles O32, by induction on the sequence: a byte is reflected, so the rest starts from the reflected register. -/
theorem x25IsFalseReflected : Obligations.X25IsFalseReflected := by
  intro c bytes
  induction bytes generalizing c with
  | nil => rfl
  | cons b rest ih => rw [crcFold_cons, ih, crcStep_x25_reverse, List.map_cons, crcFold_cons]

/-- Settles O33: a byte is additive in the register and in the byte, so a sequence is. -/
theorem crcFoldIsLinear : Obligations.CrcFoldIsLinear := fun m c d _ _ h => crcFold_xor m c d h

/-- Settles O34: the two bytes that follow the sequence leave the residue, whatever register the sequence left; in mode
`FALSE` the sequences [] and [00] leave different ones. -/
theorem x25ResidueIsConstant : Obligations.X25ResidueIsConstant := by
  have hresidue (bytes : List Byte) :
      crcFold .x25 0xFFFF#16 (bytes ++ lowFirst (crc16 .x25 bytes)) = 0xF0B8#16 := by
    have hreg : crcFold .x25 0xFFFF#16 bytes = crcFin .x25 (crc16 .x25 bytes) := (crcFin_crcFin .x25 _).symm
    rw [crcFold_append, hreg, crcFold_x25_crcFin_lowFirst]
  refine ⟨fun bytes => ?_, [], [0x00#8], by decide +kernel⟩
  dsimp only
  rw [← lowFirst_eq]
  exact ⟨hresidue bytes, congrArg (crcFin .x25) (hresidue bytes)⟩

/-- Settles O31, by running both modes on both sequences. -/
theorem crcCheckValues : Obligations.CrcCheckValues := by
  refine ⟨?_, ?_, ?_, ?_, ?_⟩ <;> decide +kernel

end Sys2Proof.Machine
end

section
/-! SUPPORT. The commands of the CRC unit (40_checksum.md R111 to R114): what each leaves, by its operand's form. -/
namespace Sys2Proof.Machine

/-- CRC_FEEDs after a success fold the concatenation of their operands (R112). -/
theorem execAll_crcFeeds (chunks : List (List Byte)) (c : Half) (s : State) :
    execAll (chunks.map .crcFeed) (s.setCrc c).succeed =
      .next (s.setCrc (crcFold s.params.crcMode c chunks.flatten)).succeed := by
  induction chunks generalizing c with
  | nil => rfl
  | cons chunk rest ih =>
    rw [List.map_cons, execAll_cons_next (exec_crcFeed chunk _), List.flatten_cons, crcFold_append]
    exact ih (crcFold s.params.crcMode c chunk)

theorem eq_littleEndian_iff {v : Half} {lo hi : Byte} :
    v = littleEndian lo hi ↔ v.toNat = 256 * hi.toNat + lo.toNat := by
  rw [← littleEndian_toNat, BitVec.toNat_inj]

/-- CRC_CHECK of data and two last bytes compares them, low byte first, with the CRC of the data (R114). -/
theorem exec_crcCheck_append_two (xs : List Byte) (lo hi : Byte) (s : State) :
    exec (.crcCheck (xs ++ [lo, hi])) s =
      .next (if crc16 s.params.crcMode xs = littleEndian lo hi then s.succeed
        else s.raiseError .checksumMismatch) := by
  obtain ⟨hdata, hlo, hhi⟩ := slice_byteAt_snoc_two xs lo hi
  have hlen : 2 ≤ (xs ++ [lo, hi]).length := by simp
  rw [exec_crcCheck]
  split
  · next h => exact execCrcCheck_match hlen (by rwa [hdata, hlo, hhi])
  · next h => exact execCrcCheck_mismatch hlen (by rwa [hdata, hlo, hhi])

/-! ### The obligations on the commands of the CRC unit -/

/-- Settles O36: a feed continues the fold, over two operands and over a list of them. -/
theorem crcFeedStreamsTheOperands : Obligations.CrcFeedStreamsTheOperands := by
  intro s xs ys chunks
  refine ⟨fun hlen => decode_of_encode_eq hlen rfl, exec_crcFeed xs s, exec_crcFeed [] s, ?_, ?_⟩
  · rw [execAll_pair (exec_crcFeed xs s) (exec_crcFeed ys _), exec_crcFeed, execCrcFeed, crcFold_append]
    rfl
  · exact ⟨_, (execAll_cons_next (exec_crcInit s)).trans (execAll_crcFeeds chunks crcInitValue s), rfl, rfl⟩

/-- Settles O37: `OUT` holds the two bytes of the CRC as numbers, and the empty operand leaves the CRC of []. -/
theorem crcCalcWritesLowByteFirst : Obligations.CrcCalcWritesLowByteFirst := by
  intro s xs
  rw [← lowFirst_eq]
  have hempty {m : CrcMode} (h : s.params.crcMode = m) :
      ∃ t, exec (.crcCalc []) s = .next t ∧ t.out = lowFirst (crc16 m []) := h ▸ ⟨_, exec_crcCalc [] s, rfl⟩
  exact ⟨fun hlen => decode_of_encode_eq hlen rfl, ⟨_, exec_crcCalc xs s, rfl, rfl⟩, hempty, hempty⟩

/-- Settles O38: an operand too short for a stored CRC, then data and a stored CRC. -/
theorem crcCheckComparesTheStoredCrc : Obligations.CrcCheckComparesTheStoredCrc := by
  intro s xs lo hi
  refine ⟨fun hlen => decode_of_encode_eq hlen rfl, execCrcCheck_short, fun h => ?_, fun h => ?_⟩
  · rw [exec_crcCheck_append_two, if_pos (eq_littleEndian_iff.mpr h)]; rfl
  · rw [exec_crcCheck_append_two, if_neg (mt eq_littleEndian_iff.mp h)]; rfl

/-- Settles O35: CRC_INIT leaves the register of the empty sequence. -/
theorem crcInitSetsTheInitialValue : Obligations.CrcInitSetsTheInitialValue := by
  intro s
  have hcrcout (m : CrcMode) (h : s.params.crcMode = m) : (s.setCrc crcInitValue).succeed.crcout = crc16 m [] := h ▸ rfl
  exact ⟨decode_of_encode_eq (Nat.zero_le _) rfl, execAll_pair (exec_crcInit s) (exec_crcInit _), _, exec_crcInit s,
    rfl, hcrcout _ rfl, hcrcout .x25, hcrcout .ccittFalse⟩

end Sys2Proof.Machine
end

section
/-! SUPPORT. The LRC frame commands (41_frame_codec.md R150 to R155). What LRC_DEC answers is decided by what its parser
finds, so each statement is one fact about the parser: a built frame is found again, and no frame is found in one with a
bit flipped, because the LRC of all its bytes is then not 0. -/
namespace Sys2Proof.Machine

/-! ### Issuing a command -/

/-- A word and operand that encode a command run it while the operand fits `DIN_MAX` (R70, R77). -/
theorem runCommand_of_exec {i : Instr} {cw : Word} {din : List Byte} {s t : State}
    (hlen : i.din.length ≤ s.params.dinMax) (henc : encode i = (cw, din)) (h : exec i s = .next t) :
    runCommand cw din s = .next t :=
  (runCommand_of_decode_ok (decode_of_encode_eq hlen henc)).trans h

/-! ### Building an LRC frame -/

/-- A built frame in the form in which the parser reads one. -/
theorem lrcFrame_eq_cons (p : Params) (payload : List Byte) :
    lrcFrame p payload = p.stxByte :: hi8 (BitVec.ofNat 16 payload.length) ::
      lo8 (BitVec.ofNat 16 payload.length) :: payload ++ [p.etxByte, lrcOf (lrcFrameBody p payload)] := by
  rw [lrcFrame, lrcFrameBody, List.append_assoc]
  rfl

/-! ### What the LRC parser finds -/

/-- LRC_DEC ends as its parser's finding decides. -/
theorem exec_lrcDec_of_parse {s : State} {din : List Byte} {r : Parsed} (h : parseLrcFrame s.params din = r) :
    exec (.lrcDec din) s = .next (s.finishDecode din r) := by
  rw [exec_lrcDec, execLrcDec, h]

section
variable {p : Params}

/-- Input too short for a frame, or led by another byte than STX, passes through (R151, R153). -/
theorem parseLrcFrame_notFramed {din : List Byte} (h : din.length < 5 ∨ din.head? ≠ some p.stxByte) :
    parseLrcFrame p din = .notFramed := by
  refine if_pos (or_iff_not_imp_left.mpr fun hlong hstx => ?_)
  obtain ⟨stx, hi, lo, rest, rfl⟩ := exists_cons_three_of_le_length (xs := din) (by omega)
  exact h.resolve_left hlong (congrArg some hstx)

theorem parseLrcFrame_lengthMismatch {hi lo : Byte} {rest : List Byte}
    (hlong : 5 ≤ (p.stxByte :: hi :: lo :: rest).length) (hlen : rest.length ≠ bigEndianLen hi lo + 2) :
    parseLrcFrame p (p.stxByte :: hi :: lo :: rest) = .bad .lengthMismatch := by
  have hframed : ¬ ((p.stxByte :: hi :: lo :: rest).length < 5 ∨
      byteAt (p.stxByte :: hi :: lo :: rest) 0 ≠ p.stxByte) :=
    not_or.mpr ⟨Nat.not_lt.mpr hlong, not_not.mpr rfl⟩
  exact (if_neg hframed).trans (if_pos fun h => hlen (Nat.add_right_cancel (m := 3) h))

variable {hi lo etx x : Byte} {payload : List Byte}

theorem parseLrcFrame_etxMismatch (hlen : payload.length = bigEndianLen hi lo) (hetx : etx ≠ p.etxByte) :
    parseLrcFrame p (p.stxByte :: hi :: lo :: payload ++ [etx, x]) = .bad .etxMismatch :=
  (parseLrcFrame_framed p hi lo etx x payload hlen).trans (if_pos hetx)

theorem parseLrcFrame_checksumMismatch (hlen : payload.length = bigEndianLen hi lo)
    (hx : lrcOf (p.stxByte :: hi :: lo :: payload ++ [p.etxByte]) ≠ x) :
    parseLrcFrame p (p.stxByte :: hi :: lo :: payload ++ [p.etxByte, x]) = .bad .checksumMismatch := by
  rw [parseLrcFrame_framed _ _ _ _ _ _ hlen, if_neg (not_not.mpr rfl), if_pos hx]

theorem parseLrcFrame_found (hlen : payload.length = bigEndianLen hi lo)
    (hx : lrcOf (p.stxByte :: hi :: lo :: payload ++ [p.etxByte]) = x) :
    parseLrcFrame p (p.stxByte :: hi :: lo :: payload ++ [p.etxByte, x]) =
      .frame payload (BitVec.ofNat 32 payload.length) := by
  rw [parseLrcFrame_framed _ _ _ _ _ _ hlen, if_neg (not_not.mpr rfl), if_neg (not_not.mpr hx)]

/-- The parser finds the payload of a built frame again (R154). -/
theorem parseLrcFrame_lrcFrame (h : payload.length ≤ 65535) :
    parseLrcFrame p (lrcFrame p payload) = .frame payload (BitVec.ofNat 32 payload.length) := by
  rw [lrcFrame_eq_cons]
  exact parseLrcFrame_found (bigEndianLen_hi8_lo8 _ h).symm rfl

end

/-! ### A flipped bit (R155) -/

/-- `bytes` with bit `k` of byte `j` flipped. -/
def flipBit (bytes : List Byte) (j k : Nat) : List Byte := bytes.modify j fun b => b ^^^ (1#8 <<< k)

theorem flipBit_length (bytes : List Byte) (j k : Nat) : (flipBit bytes j k).length = bytes.length :=
  List.length_modify ..

theorem flipBit_cons_zero (b : Byte) (bytes : List Byte) (k : Nat) :
    flipBit (b :: bytes) 0 k = (b ^^^ (1#8 <<< k)) :: bytes := rfl

theorem flipBit_cons_succ (b : Byte) (bytes : List Byte) (j k : Nat) :
    flipBit (b :: bytes) (j + 1) k = b :: flipBit bytes j k := rfl

theorem flipBit_append_left {xs : List Byte} (ys : List Byte) {j : Nat} (k : Nat) (h : j < xs.length) :
    flipBit (xs ++ ys) j k = flipBit xs j k ++ ys := by
  induction xs generalizing j with
  | nil => exact absurd h (Nat.not_lt_zero j)
  | cons x xs ih =>
    cases j with
    | zero => rfl
    | succ j => rw [List.cons_append, flipBit_cons_succ, ih (Nat.lt_of_succ_lt_succ h)]; rfl

theorem flipBit_append_right (xs ys : List Byte) (j k : Nat) :
    flipBit (xs ++ ys) (xs.length + j) k = xs ++ flipBit ys j k := List.modifyTailIdx_add ..

theorem xor_bit_ne (b : Byte) {k : Nat} (hk : k < 8) : b ^^^ (1#8 <<< k) ≠ b := fun h =>
  bit_ne_zero hk ((BitVec.xor_right_inj b).mp (h.trans BitVec.xor_zero.symm))

/-- A flipped bit is the same flip of the LRC. -/
theorem lrcOf_flipBit {bytes : List Byte} {j : Nat} (k : Nat) (h : j < bytes.length) :
    lrcOf (flipBit bytes j k) = lrcOf bytes ^^^ (1#8 <<< k) := by
  induction bytes generalizing j with
  | nil => exact absurd h (Nat.not_lt_zero j)
  | cons b rest ih =>
    cases j with
    | zero => rw [flipBit_cons_zero, lrcOf_cons, lrcOf_cons]; ac_rfl
    | succ j => rw [flipBit_cons_succ, lrcOf_cons, lrcOf_cons, ih (Nat.lt_of_succ_lt_succ h), BitVec.xor_assoc]

/-- The length field determines its two bytes. -/
theorem bigEndianLen_inj {hi lo hi' lo' : Byte} (h : bigEndianLen hi lo = bigEndianLen hi' lo') :
    hi = hi' ∧ lo = lo' := by
  have happend : hi ++ lo = hi' ++ lo' := by rw [← ofNat_bigEndianLen, ← ofNat_bigEndianLen, h]
  exact ⟨by rw [← hi8_append hi lo, happend, hi8_append], by rw [← lo8_append hi lo, happend, lo8_append]⟩

section
variable (p : Params) {payload : List Byte} {k : Nat}

/-- No frame is found in a built frame with a bit flipped: the LRC of all bytes of a frame is 0 (R81). -/
theorem parseLrcFrame_flipBit_ne_frame {j : Nat} (hk : k < 8) (hj : j < payload.length + 5) (found : List Byte)
    (fields : Word) : parseLrcFrame p (flipBit (lrcFrame p payload) j k) ≠ .frame found fields := by
  intro h
  have hzero : lrcOf (flipBit (lrcFrame p payload) j k) = 0x00#8 := by
    rw [(parseLrcFrame_eq_frame h).1]
    exact (lrcFrame_invariant p found).2
  rw [lrcOf_flipBit k (by rwa [lrcFrame_length]), (lrcFrame_invariant p payload).2, BitVec.zero_xor] at hzero
  exact bit_ne_zero hk hzero

theorem parseLrcFrame_flipBit_stx (hk : k < 8) : parseLrcFrame p (flipBit (lrcFrame p payload) 0 k) = .notFramed := by
  rw [lrcFrame_eq_cons]
  exact parseLrcFrame_notFramed (.inr fun h => xor_bit_ne _ hk (Option.some.inj h))

/-- A bit of a LEN byte changes the LEN and not the size. -/
theorem parseLrcFrame_flipBit_len {j : Nat} (hk : k < 8) (hpay : payload.length ≤ 65535) (hj : j = 1 ∨ j = 2) :
    parseLrcFrame p (flipBit (lrcFrame p payload) j k) = .bad .lengthMismatch := by
  have hlen {hi lo : Byte} (h : (payload ++ [p.etxByte, lrcOf (lrcFrameBody p payload)]).length =
      bigEndianLen hi lo + 2) :
      hi = hi8 (BitVec.ofNat 16 payload.length) ∧ lo = lo8 (BitVec.ofNat 16 payload.length) := by
    rw [List.length_append] at h
    exact bigEndianLen_inj ((Nat.add_right_cancel (m := 2) h).symm.trans (bigEndianLen_hi8_lo8 _ hpay).symm)
  rw [lrcFrame_eq_cons]
  obtain rfl | rfl := hj
  · exact parseLrcFrame_lengthMismatch (by simp) fun h => xor_bit_ne _ hk (hlen h).1
  · exact parseLrcFrame_lengthMismatch (by simp) fun h => xor_bit_ne _ hk (hlen h).2

/-- A bit of DATA or of the LRC byte leaves STX, LEN and ETX as they were, so only the LRC can be why no frame is
found. -/
theorem parseLrcFrame_flipBit_data_or_lrc {j : Nat} (hk : k < 8) (hpay : payload.length ≤ 65535)
    (hj : j = payload.length + 4 ∨ 3 ≤ j ∧ j < payload.length + 3) :
    parseLrcFrame p (flipBit (lrcFrame p payload) j k) = .bad .checksumMismatch := by
  have hlen := (bigEndianLen_hi8_lo8 payload.length hpay).symm
  have hno := parseLrcFrame_flipBit_ne_frame p (payload := payload) (j := j) hk (by omega)
  rw [lrcFrame_eq_cons] at hno ⊢
  obtain rfl | ⟨hlow, hhigh⟩ := hj
  · have hflip : flipBit (payload ++ [p.etxByte, lrcOf (lrcFrameBody p payload)]) (payload.length + 1) k =
        payload ++ [p.etxByte, lrcOf (lrcFrameBody p payload) ^^^ (1#8 <<< k)] := flipBit_append_right ..
    simp only [List.cons_append, flipBit_cons_succ, hflip] at hno ⊢
    exact parseLrcFrame_checksumMismatch hlen fun hx => hno _ _ (parseLrcFrame_found hlen hx)
  · obtain ⟨i, rfl⟩ := Nat.exists_eq_add_of_le' hlow
    have hi : i < payload.length := Nat.lt_of_add_lt_add_right hhigh
    have hlen' := (flipBit_length payload i k).trans hlen
    simp only [List.cons_append, flipBit_cons_succ, flipBit_append_left _ k hi] at hno ⊢
    exact parseLrcFrame_checksumMismatch hlen' fun hx => hno _ _ (parseLrcFrame_found hlen' hx)

end

/-- Where no frame was found, a decode command leaves its input in `OUT` and 0 in `FRM`, without success (R151). -/
theorem finishDecode_of_ne_frame (s : State) (din : List Byte) {r : Parsed}
    (h : ∀ found fields, r ≠ .frame found fields) :
    (s.finishDecode din r).ok = false ∧ (s.finishDecode din r).out = din ∧
      (s.finishDecode din r).frm = 0x00000000#32 := by
  cases r with
  | notFramed => exact ⟨rfl, rfl, rfl⟩
  | bad e => exact ⟨rfl, rfl, rfl⟩
  | frame found fields => exact absurd rfl (h found fields)

/-! ### The obligations on LRC frames -/

/-- Settles O44: both words decode, and the parser finds the payload of the built frame. -/
theorem lrcFrameRoundTrip : Obligations.LrcFrameRoundTrip := by
  intro s xs hlen hmax
  let t := (s.setOut (lrcFrame s.params xs)).succeed
  have henc : runCommand 0x00000010#32 xs s = .next t :=
    runCommand_of_exec (i := .lrcEnc xs) (Nat.le_of_add_right_le hmax) rfl (execLrcEnc_fits hlen)
  have hdec : runCommand 0x00000011#32 t.out t =
      .next (t.finishDecode t.out (.frame xs (BitVec.ofNat 32 xs.length))) :=
    runCommand_of_exec (i := .lrcDec t.out) ((lrcFrame_length s.params xs).trans_le hmax) rfl
      (exec_lrcDec_of_parse (parseLrcFrame_lrcFrame hlen))
  exact ⟨t, _, henc, rfl, hdec, rfl, rfl, (BitVec.toNat_ofNat ..).trans (Nat.mod_eq_of_lt (by omega))⟩

/-- Settles O41: the two LEN bytes are the length's quotient and remainder by 256. -/
theorem lrcEncBuildsTheFrame : Obligations.LrcEncBuildsTheFrame := by
  intro s xs body
  refine ⟨fun hlen => decode_of_encode_eq hlen rfl, fun hlen => ?_, execLrcEnc_tooLong, by simp [body]⟩
  have hbody : lrcFrameBody s.params xs = body := by
    obtain ⟨hhi, hlo⟩ := hi8_lo8_ofNat xs.length hlen
    rw [lrcFrameBody, hhi, hlo]
  rw [← hbody]
  exact execLrcEnc_fits hlen

/-- Settles O43, check by check. -/
theorem lrcDecOutcomes : Obligations.LrcDecOutcomes := by
  intro s din payload stx hi lo etx x len raw framed
  refine ⟨fun hlen => decode_of_encode_eq hlen rfl, fun h => exec_lrcDec_of_parse (parseLrcFrame_notFramed h),
    fun hlong hlen => exec_lrcDec_of_parse (parseLrcFrame_lengthMismatch hlong hlen), ?_, ?_, ?_⟩
  · rintro rfl hlen hetx
    exact exec_lrcDec_of_parse (parseLrcFrame_etxMismatch hlen hetx)
  · rintro rfl hlen rfl hx
    exact exec_lrcDec_of_parse (parseLrcFrame_checksumMismatch hlen hx)
  · rintro rfl hlen rfl hx
    rw [← hlen]
    exact exec_lrcDec_of_parse (parseLrcFrame_found hlen hx)

/-- Settles O46: no frame is found, and the byte with the flipped bit decides what is found instead. -/
theorem lrcFrameBitErrorsAreDetected : Obligations.LrcFrameBitErrorsAreDetected := by
  intro s t xs j k h hok hj hk bad
  obtain ⟨-, rfl⟩ | ⟨hlen, rfl⟩ := execLrcEnc_cases h
  · cases hok
  obtain ⟨hnok, hout, hfrm⟩ := finishDecode_of_ne_frame (s.setOut (lrcFrame s.params xs)).succeed bad
    (parseLrcFrame_flipBit_ne_frame s.params hk hj)
  refine ⟨_, exec_lrcDec_of_parse (r := parseLrcFrame s.params (flipBit (lrcFrame s.params xs) j k)) rfl, hnok, hout,
    hfrm, fun hdata => ?_, fun hfield => ?_, fun hstx => ?_⟩
  · rw [parseLrcFrame_flipBit_data_or_lrc s.params hk hlen hdata]
    exact ⟨rfl, rfl⟩
  · rw [parseLrcFrame_flipBit_len s.params hk hlen hfield]
    exact ⟨rfl, rfl⟩
  · rw [hstx, parseLrcFrame_flipBit_stx s.params hk]
    exact ⟨rfl, rfl⟩

end Sys2Proof.Machine
end

section
/-! SUPPORT. The CRC frame commands (41_frame_codec.md R156 to R158). As for LRC frames, what CRC_DEC answers is decided
by what its parser finds: by size, by LEN, and by the CRC of the bytes before the two last. -/
namespace Sys2Proof.Machine

/-! ### What the CRC parser finds -/

/-- CRC_DEC ends as its parser's finding decides. -/
theorem exec_crcDec_of_parse {s : State} {din : List Byte} {r : Parsed} (h : parseCrcFrame s.params din = r) :
    exec (.crcDec din) s = .next (s.finishDecode din r) := by
  rw [exec_crcDec, execCrcDec, h]

section
variable {p : Params} {cmd len cls ident lo hi : Byte} {payload : List Byte}

theorem parseCrcFrame_tooShort {din : List Byte} (h : din.length < 6) : parseCrcFrame p din = .bad .tooShort :=
  if_pos h

theorem parseCrcFrame_lengthMismatch
    (h : ¬ (p.lenBias.val ≤ len.toNat ∧ payload.length + p.lenBias.val = len.toNat)) :
    parseCrcFrame p (cmd :: len :: cls :: ident :: payload ++ [lo, hi]) = .bad .lengthMismatch := by
  rw [parseCrcFrame_framed, if_pos (by omega)]

/-- With the right LEN, the two last bytes decide: they are the CRC16 of the bytes before them or not (R157). -/
theorem parseCrcFrame_of_len_eq (h : payload.length + p.lenBias.val = len.toNat) :
    parseCrcFrame p (cmd :: len :: cls :: ident :: payload ++ [lo, hi]) =
      if crc16 p.crcMode (cmd :: len :: cls :: ident :: payload) = littleEndian lo hi then
        .frame payload (ident ++ cls ++ len ++ cmd)
      else .bad .checksumMismatch := by
  rw [parseCrcFrame_framed, if_neg (by omega), ite_not, packBytes_eq_append]

end

/-! ### Building a CRC frame -/

/-- The parser finds the payload and the header of a built frame again (R158). -/
theorem parseCrcFrame_crcFrame (p : Params) (cmd cls ident : Byte) {payload : List Byte}
    (h : payload.length + p.lenBias.val ≤ 255) :
    parseCrcFrame p (crcFrame p cmd cls ident payload) =
      .frame payload (ident ++ cls ++ BitVec.ofNat 8 (payload.length + p.lenBias.val) ++ cmd) := by
  have hlen : payload.length + p.lenBias.val = (BitVec.ofNat 8 (payload.length + p.lenBias.val)).toNat := by
    rw [BitVec.toNat_ofNat, Nat.mod_eq_of_lt (by omega)]
  exact (parseCrcFrame_of_len_eq hlen).trans (if_pos (littleEndian_lo8_hi8 _).symm)

/-- CRC_CHECK accepts every built frame (R158). -/
theorem exec_crcCheck_crcFrame (cmd cls ident : Byte) (payload : List Byte) (s : State) :
    exec (.crcCheck (crcFrame s.params cmd cls ident payload)) s = .next s.succeed := by
  rw [crcFrame, lowFirst, exec_crcCheck_append_two, if_pos (littleEndian_lo8_hi8 _).symm]

/-! ### The obligations on CRC frames -/

/-- Settles O50: the three words decode, the parser finds the payload and header of the built frame, and its last two
bytes are its CRC. -/
theorem crcFrameRoundTrip : Obligations.CrcFrameRoundTrip := by
  intro s k c i xs hlen hmax
  have hfits : xs.length + s.params.lenBias.val ≤ 255 := (fits_iff_crcMaxPayload s.params xs).mpr hlen
  let t := (s.setOut (crcFrame s.params k c i xs)).succeed
  have hframe : t.out.length ≤ s.params.dinMax := (crcFrame_length ..).trans_le hmax
  have henc : runCommand (i ++ c ++ k ++ 0x12#8) xs s = .next t :=
    runCommand_of_exec (i := .crcEnc k c i xs) (Nat.le_of_add_right_le hmax) rfl (execCrcEnc_fits hfits)
  have hdec : runCommand 0x00000013#32 t.out t = .next (t.finishDecode t.out
      (.frame xs (i ++ c ++ BitVec.ofNat 8 (xs.length + s.params.lenBias.val) ++ k))) :=
    runCommand_of_exec (i := .crcDec t.out) hframe rfl
      (exec_crcDec_of_parse (parseCrcFrame_crcFrame s.params k c i hfits))
  have hcheck : runCommand 0x0000000B#32 t.out t = .next t.succeed :=
    runCommand_of_exec (i := .crcCheck t.out) hframe rfl (exec_crcCheck_crcFrame k c i xs t)
  exact ⟨t, _, _, henc, rfl, hdec, rfl, rfl, rfl, hcheck, rfl⟩

/-- Settles O48: the frame's last two bytes are the CRC's quotient and remainder by 256, low byte first. -/
theorem crcEncBuildsTheFrame : Obligations.CrcEncBuildsTheFrame := by
  intro s k c i xs body v
  refine ⟨fun hlen => decode_of_encode_eq hlen rfl, fun hlen => ?_, execCrcEnc_tooLong, by simp [body]⟩
  rw [← lowFirst_eq]
  exact execCrcEnc_fits hlen

/-- Settles O49, check by check. -/
theorem crcDecOutcomes : Obligations.CrcDecOutcomes := by
  intro s din payload k len c i lo hi raw body fits
  refine ⟨fun hlen => decode_of_encode_eq hlen rfl, fun h => exec_crcDec_of_parse (parseCrcFrame_tooShort h),
    fun h => exec_crcDec_of_parse (parseCrcFrame_lengthMismatch h), fun hfits hcrc => ?_, fun hfits hcrc => ?_⟩
  · exact exec_crcDec_of_parse ((parseCrcFrame_of_len_eq hfits.2).trans (if_neg (mt eq_littleEndian_iff.mp hcrc)))
  · exact exec_crcDec_of_parse ((parseCrcFrame_of_len_eq hfits.2).trans (if_pos (eq_littleEndian_iff.mpr hcrc)))

end Sys2Proof.Machine
end

section
/-! SUPPORT. The completeness function and the reassembly buffer (41_frame_codec.md R160 to R164). The tiers are one
equation each; whether a buffer is complete is then a single test on its length (`fic_cons_complete_iff`). -/
namespace Sys2Proof.Machine

/-! ### The completeness function, tier by tier (R160) -/

section
variable {b : Byte} {rest : List Byte}

theorem fic_of_fixedTotal {total : Nat} (h : fixedTotal b = some total) :
    fic (b :: rest) = if total ≤ rest.length + 1 then ⟨true, 1#2⟩ else notComplete := by
  simp only [fic, h, ge_iff_le]

theorem fic_loneAck : fic [ackByte] = ⟨true, 2#2⟩ := rfl

theorem fic_of_generic (hfixed : fixedTotal b = none) (hack : ¬ (rest.length + 1 = 1 ∧ b = ackByte)) :
    fic (b :: rest) = if b.toNat + genericOverhead ≤ rest.length + 1 then ⟨true, 3#2⟩ else notComplete := by
  simp only [fic, hfixed, if_neg hack, ge_iff_le]

theorem fic_congr_length {other : List Byte} (h : other.length = rest.length) : fic (b :: other) = fic (b :: rest) := by
  simp only [fic, h]

theorem fixedTotal_eq_none_iff : fixedTotal b = none ↔ b ≠ 0x04#8 ∧ b ≠ 0x0B#8 := by
  unfold fixedTotal
  split_ifs with h4 hB <;> simp [*]

/-- A known length byte stands for the total that the generic rule gives, and is not the ACK byte (R163). -/
theorem eq_of_fixedTotal_eq_some {total : Nat} (h : fixedTotal b = some total) :
    total = b.toNat + genericOverhead ∧ b ≠ ackByte := by
  unfold fixedTotal at h
  split_ifs at h with h4 hB
  · obtain rfl := Option.some.inj h
    exact h4 ▸ ⟨rfl, by decide⟩
  · obtain rfl := Option.some.inj h
    exact hB ▸ ⟨rfl, by decide⟩

theorem ite_notComplete_complete_iff {c : Prop} [Decidable c] {tier : BitVec 2} :
    (if c then (⟨true, tier⟩ : Completeness) else notComplete).complete = true ↔ c := by
  split <;> simp [notComplete, *]

/-- A buffer is complete when it has as many bytes as the generic rule asks for, or is the lone ACK byte (R163). -/
theorem fic_cons_complete_iff : (fic (b :: rest)).complete = true ↔
    b.toNat + 4 ≤ (b :: rest).length ∨ (b :: rest).length = 1 ∧ b = ackByte := by
  rw [List.length_cons]
  cases hfixed : fixedTotal b with
  | some total =>
    obtain ⟨rfl, hack⟩ := eq_of_fixedTotal_eq_some hfixed
    rw [fic_of_fixedTotal hfixed, ite_notComplete_complete_iff, or_iff_left fun h => hack h.2]
    rfl
  | none =>
    by_cases hack : rest.length + 1 = 1 ∧ b = ackByte
    · obtain ⟨hlen, rfl⟩ := hack
      obtain rfl := List.length_eq_zero_iff.mp (Nat.succ.inj hlen)
      exact iff_of_true rfl (.inr ⟨rfl, rfl⟩)
    · rw [fic_of_generic hfixed hack, ite_notComplete_complete_iff, or_iff_left hack]
      rfl

/-- Every first byte but the ACK byte asks for the generic total (R163). -/
theorem fic_cons_complete_iff_of_ne_ack (h : b ≠ ackByte) :
    (fic (b :: rest)).complete = true ↔ b.toNat + 4 ≤ (b :: rest).length := by
  rw [fic_cons_complete_iff, or_iff_left fun hlone => h hlone.2]

end

/-- The same test for any buffer: the empty one has no first byte and is not complete (R163). -/
theorem fic_complete_iff (bytes : List Byte) : (fic bytes).complete = true ↔
    ∃ b rest, bytes = b :: rest ∧ (b.toNat + 4 ≤ bytes.length ∨ bytes.length = 1 ∧ b = ackByte) := by
  cases bytes with
  | nil => exact iff_of_false Bool.false_ne_true fun ⟨_, _, h, _⟩ => nomatch h
  | cons b rest =>
    rw [fic_cons_complete_iff]
    exact ⟨fun h => ⟨b, rest, rfl, h⟩, fun ⟨_, _, he, h⟩ => (List.cons.inj he).1 ▸ h⟩

/-- Bytes appended keep a buffer complete, unless it is the lone ACK byte (R163). -/
theorem fic_complete_append {xs : List Byte} (ys : List Byte) (h : (fic xs).complete = true) (hack : xs ≠ [ackByte]) :
    (fic (xs ++ ys)).complete = true := by
  obtain ⟨b, rest, rfl, hlen | ⟨hlone, rfl⟩⟩ := (fic_complete_iff xs).mp h
  · refine fic_cons_complete_iff.mpr (.inl (hlen.trans ?_))
    simp
  · exact absurd (congrArg (ackByte :: ·) (List.length_eq_zero_iff.mp (Nat.succ.inj hlone))) hack

/-- The lone ACK byte is complete by tier 2, and what it starts is complete again at 5 bytes by tier 3 (R163). -/
theorem fic_ack_cons (rest : List Byte) : fic (ackByte :: rest) =
    if rest = [] then ⟨true, 2#2⟩ else if 5 ≤ (ackByte :: rest).length then ⟨true, 3#2⟩ else notComplete := by
  by_cases hnil : rest = []
  · rw [if_pos hnil, hnil, fic_loneAck]
  · rw [if_neg hnil]
    exact fic_of_generic rfl fun h => hnil (List.length_eq_zero_iff.mp (Nat.succ.inj h.1))

/-! ### The obligations on the completeness function -/

/-- Settles O53: each property is the test on the length, for a first byte or for all. -/
theorem ficProperties : Obligations.FicProperties := by
  refine ⟨fun b rest hb => fic_cons_complete_iff_of_ne_ack ?_, fic_complete_iff,
    fun _ ys h hack => fic_complete_append ys h hack, fic_ack_cons,
    fun rest => ⟨fic_cons_complete_iff_of_ne_ack (by decide), fic_cons_complete_iff_of_ne_ack (by decide)⟩,
    fun rest => ⟨fic_cons_complete_iff_of_ne_ack (by decide), fic_cons_complete_iff_of_ne_ack (by decide)⟩⟩
  obtain rfl | rfl := hb <;> decide

/-- Settles O54: what is taken from the front of a built frame starts with STX, whose value alone sets the total of 6. -/
theorem ficMisjudgesFramesAndPrefixes : Obligations.FicMisjudgesFramesAndPrefixes := by
  refine ⟨fun s t xs hstx h hok n hn => ?_, fun reply hreply => ?_, fun reply =>
    fic_cons_complete_iff_of_ne_ack (by decide)⟩
  · obtain ⟨-, rfl⟩ | ⟨-, rfl⟩ := execLrcEnc_cases h
    · cases hok
    rw [State.succeed_out, State.setOut_out] at hn ⊢
    cases n with
    | zero => exact iff_of_false Bool.false_ne_true (by omega)
    | succ m =>
      have hlen := List.length_take_of_le hn
      rw [lrcFrame_eq_cons, hstx] at hlen ⊢
      rw [List.cons_append, List.take_succ_cons] at hlen ⊢
      rw [fic_cons_complete_iff_of_ne_ack (by decide), hlen]
      rfl
  · have hlone : ¬ ((0x01#8 :: reply).length = 1 ∧ 0x01#8 = ackByte) :=
      fun h => hreply (List.length_eq_zero_iff.mp (Nat.succ.inj h.1))
    rw [fic_cons_complete_iff, or_iff_left hlone]
    rfl

/-- Settles O52: one equation for each tier. -/
theorem ficDecidesByThreeTiers : Obligations.FicDecidesByThreeTiers := by
  refine ⟨rfl, fun b rest => ?_⟩
  intro n
  refine ⟨?_, ?_, ?_, fun h4 hB hack => ?_, fun other => fic_congr_length⟩
  · rintro rfl
    exact fic_of_fixedTotal rfl
  · rintro rfl
    exact fic_of_fixedTotal rfl
  · rintro rfl hlen
    rw [List.length_eq_zero_iff.mp (Nat.succ.inj hlen)]
    exact fic_loneAck
  · exact fic_of_generic (fixedTotal_eq_none_iff.mpr ⟨h4, hB⟩) hack

/-! ### The reassembly buffer -/

/-- `STATUS` after a success with an empty buffer: `OK` alone is set (R161). -/
theorem statusWord_succeed_of_rxbuf_nil {s : State} (h : s.rxbuf = []) : s.succeed.statusWord = 0x0010#16 := by
  rw [State.statusWord, State.tier, State.complete, State.succeed_rxbuf, h, State.succeed_err, State.succeed_ok,
    State.succeed_pass]
  decide

/-! ### The obligations on the reassembly buffer -/

/-- Settles O55: the second clear finds the buffer as the first left it. -/
theorem rxClearEmptiesTheBuffer : Obligations.RxClearEmptiesTheBuffer := fun s =>
  ⟨decode_of_encode_eq (Nat.zero_le _) rfl, execAll_pair (exec_rxClear s) (exec_rxClear _), _, exec_rxClear s, rfl,
    statusWord_succeed_of_rxbuf_nil rfl⟩

/-- Settles O56: `COMPLETE` and `TIER` are read from the buffer that the append leaves. -/
theorem rxAppendIsAllOrNothing : Obligations.RxAppendIsAllOrNothing := fun _ _ =>
  ⟨fun hlen => decode_of_encode_eq hlen rfl,
    fun hfit => ⟨_, execRxAppend_fits hfit, rfl, statusWord_complete _, statusWord_tier _⟩, execRxAppend_overflow⟩

end Sys2Proof.Machine
end

section
/-! SUPPORT. The system command (42_system.md R200). NOP is of format N, whose opcodes each stand in one word that decodes,
with the empty operand alone. -/
namespace Sys2Proof.Machine

/-! ### Formats without operand fields (R72) -/

/-- A format N opcode decodes in its plain word with the empty operand only: no bit of `CW` is ignored (R72, R77). -/
theorem decode_illegalOp_of_format_n {p : Params} {cw : Word} {din : List Byte} {o : Op} (hop : opField cw = o.code)
    (hn : o.format = .n) (h : cw ≠ plainWord o ∨ din ≠ []) : decode p cw din = .error .illegalOp := by
  rw [decode_of_assigned hop]
  refine if_pos (h.imp (fun hcw => ⟨by simp [hn], fun hr => hcw ?_⟩) fun hdin => ⟨hn, hdin⟩)
  rw [plainWord, ← hr, ← hop, word_eq_reserved_op]

/-! ### The obligations on the system command -/

/-- Settles O24: the plain word of NOP is 0, and opcode 0x00 in any other word is that of format N. -/
theorem nopChangesStatusOnly : Obligations.NopChangesStatusOnly := by
  refine fun s => ⟨decode_of_encode_eq (Nat.zero_le _) rfl, exec_nop s, fun cw din hcw h => ?_⟩
  have hop : opField cw = Op.nop.code := BitVec.eq_of_toNat_eq ((opField_toNat cw).trans hcw)
  exact decode_illegalOp_of_format_n hop rfl h

end Sys2Proof.Machine
end

section
/-! SUPPORT. The statements about exceptions (60_exceptions.md). No event traps (`handleEvent_setInput`), so every step
answers a next state; a run is then total, and the invariant that each step keeps holds all along it (`run_keeps`). -/
namespace Sys2Proof.Machine

/-! ### Steps that idle and runs that never stop -/

/-- R229: with nothing issued the step leaves the state as it is. -/
theorem step_of_input_nil {s : State} (h : s.input = []) : step s = .next s := by
  rw [step, takeEvent_nil h]

/-- A state that a step leaves as it is, a run of any length leaves as it is. -/
theorem run_of_step_eq_self {s : State} (h : step s = .next s) (k : Nat) : Sys2Proof.core.run k s = .next s := by
  induction k with
  | zero => rfl
  | succ k ih => exact (run_succ_of_step k h).trans ih

/-- R210, R223: no event stops the block. -/
theorem step_total (s : State) : ∃ t, step s = .next t := by
  cases hin : s.input with
  | nil => exact ⟨s, step_of_input_nil hin⟩
  | cons ev rest =>
    obtain ⟨t, ht⟩ := handleEvent_setInput ev s
    exact ⟨_, (step_of_input_cons hin).trans (ht rest)⟩

theorem run_total (k : Nat) (s : State) : ∃ t, Sys2Proof.core.run k s = .next t := by
  induction k generalizing s with
  | zero => exact ⟨s, rfl⟩
  | succ k ih =>
    obtain ⟨u, hu⟩ := step_total s
    obtain ⟨t, ht⟩ := ih u
    exact ⟨t, (run_succ_of_step k hu).trans ht⟩

/-! ### The obligations on exceptions -/

/-- Settles O16: the run answers a next state, and the invariant that every step keeps holds there. -/
theorem runsFromTheInvariantAreSafe : Obligations.RunsFromTheInvariantAreSafe := by
  intro s hs k
  obtain ⟨t, ht⟩ := run_total k s
  exact ⟨t, ht, run_keeps (fun u v hstep hu => everyStepKeepsTheInvariant u v hu hstep) ht hs⟩

/-- Settles O13: an idle step holds the state, and every event has a next state. -/
theorem everyStepAnswersNext : Obligations.EveryStepAnswersNext := step_total

/-- Settles O9: running a command that does not decode is the early error of its code (R27). -/
theorem earlyErrorsWriteStatusOnly : Obligations.EarlyErrorsWriteStatusOnly := fun _ _ _ =>
  ⟨runCommand_of_decode_error, runCommand_of_decode_error⟩

/-- Settles O12: the idle step leaves the state as it is, and so does a run of them. -/
theorem idleBlockHoldsItsState : Obligations.IdleBlockHoldsItsState := fun k _ h =>
  run_of_step_eq_self (step_of_input_nil h) k

end Sys2Proof.Machine
end

section
/-! SUPPORT. The statements about reset and hazards (70_reset_and_hazards.md). Both streamed checksums are one induction
over the commands (`execAll_streams`), for a register that one operation feeds and no other command of the list writes;
the host's rule for LRC frames is decided by how many bytes stand after LEN (`hostLrcFrame_cons`). -/
namespace Sys2Proof.Machine

/-! ### Streaming into a register (R254) -/

/-- The operands of the commands of one operation in a list, concatenated. -/
def streamed (o : Op) (is : List Instr) : List Byte :=
  ((is.filter fun i => decide (i.op = o)).map Instr.din).flatten

theorem streamed_cons (o : Op) (i : Instr) (is : List Instr) :
    streamed o (i :: is) = (if i.op = o then i.din else []) ++ streamed o is := by
  by_cases h : i.op = o <;> simp [streamed, h]

/-- What `read` shows of a state is folded by each command of operation `o` over its operand, and kept by each other
command of the list: then the list folds it over the operands of all its commands of operation `o`. -/
theorem execAll_streams {α : Type} (f : α → Byte → α) (read : State → α) (o : Op) {is : List Instr} {s : State}
    (hexec : ∀ i ∈ is, ∀ u v : State, u.params = s.params → exec i u = .next v →
      read v = (if i.op = o then i.din else []).foldl f (read u)) :
    ∃ t, execAll is s = .next t ∧ t.params = s.params ∧ read t = (streamed o is).foldl f (read s) := by
  induction is generalizing s with
  | nil => exact ⟨s, rfl, rfl, rfl⟩
  | cons i rest ih =>
    obtain ⟨u, hu⟩ := exec_total i s
    have hparams : u.params = s.params := (exec_effect hu).keepsRest.params
    obtain ⟨t, ht, htparams, hread⟩ := ih (s := u) fun j hj v w hv =>
      hexec j (List.mem_cons_of_mem i hj) v w (hv.trans hparams)
    refine ⟨t, (execAll_cons_next hu).trans ht, htparams.trans hparams, ?_⟩
    rw [hread, hexec i List.mem_cons_self s u rfl hu, streamed_cons, List.foldl_append]

/-- CRC_FEED folds its operand into `CRC`, and a command outside the CRC unit's INIT, FEED and CALC keeps it (R24). -/
theorem exec_folds_crc {i : Instr} {s t : State} (hop : i.op ≠ .crcInit ∧ i.op ≠ .crcCalc) (h : exec i s = .next t) :
    t.crc = crcFold s.params.crcMode s.crc (if i.op = .crcFeed then i.din else []) := by
  split
  · next hfeed =>
    cases i with
    | crcFeed din => cases h; rfl
    | _ => cases hfeed
  · next hfeed => exact (exec_effect h).keepsRest.crc (by simp [hop, hfeed])

/-- LRC_FEED folds its operand into `LRC`, and a command outside the LRC unit's INIT, FEED and CALC keeps it (R23). -/
theorem exec_folds_lrc {i : Instr} {s t : State} (hop : i.op ≠ .lrcInit ∧ i.op ≠ .lrcCalc) (h : exec i s = .next t) :
    t.lrc = lrcFold s.lrc (if i.op = .lrcFeed then i.din else []) := by
  split
  · next hfeed =>
    cases i with
    | lrcFeed din => cases h; rfl
    | _ => cases hfeed
  · next hfeed => exact (exec_effect h).keepsRest.lrc (by simp [hop, hfeed])

/-! ### The host's rule for LRC frames (R256) -/

section
variable {p : Params} {hi lo : Byte}

theorem hostLrcFrame_short {bytes : List Byte} (h : bytes.length < 3) : hostLrcFrame p bytes = none :=
  if_neg fun ⟨hlen, _⟩ => Nat.not_le.mpr h hlen

/-- A buffer that starts with STX and holds LEN is cut where LEN says, once it reaches that far. -/
theorem hostLrcFrame_cons (tail : List Byte) :
    hostLrcFrame p (p.stxByte :: hi :: lo :: tail) =
      if bigEndianLen hi lo + 2 ≤ tail.length then
        some (p.stxByte :: hi :: lo :: tail.take (bigEndianLen hi lo + 2))
      else none := by
  simp only [hostLrcFrame, byteAt_cons_succ, byteAt_cons_zero, slice_zero, List.take_succ_cons,
    List.length_cons, true_and]
  exact if_congr (by omega) rfl rfl

variable {tail : List Byte} (hlen : tail.length = bigEndianLen hi lo + 2)
include hlen

theorem hostLrcFrame_append (rest : List Byte) :
    hostLrcFrame p (p.stxByte :: hi :: lo :: tail ++ rest) = some (p.stxByte :: hi :: lo :: tail) := by
  rw [List.cons_append, List.cons_append, List.cons_append, hostLrcFrame_cons, ← hlen, List.take_left,
    if_pos (by simp)]

theorem hostLrcFrame_take {n : Nat} (hn : n < (p.stxByte :: hi :: lo :: tail).length) :
    hostLrcFrame p ((p.stxByte :: hi :: lo :: tail).take n) = none := by
  match n with
  | 0 | 1 | 2 => exact hostLrcFrame_short (by simp)
  | m + 3 =>
    have hm : m < tail.length := by simpa using hn
    rw [List.take_succ_cons, List.take_succ_cons, List.take_succ_cons, hostLrcFrame_cons, List.length_take,
      if_neg (by omega)]

end

/-! ### Reset (R240, R241) -/

/-- A step that takes `RST` answers the reset state, with what the host issued after it. -/
theorem step_of_rst {s : State} {rest : List HostEvent} (h : s.input = .rst :: rest) :
    step s = .next { State.resetWith s.params with input := rest } := by
  rw [step_of_input_cons h]
  rfl

/-- `STATUS` with no outcome recorded and an empty buffer: no bit is set (R26, R240). -/
theorem statusWord_of_no_outcome {s : State} (hrxbuf : s.rxbuf = []) (herr : s.err = 0#4) (hok : s.ok = false)
    (hpass : s.pass = false) : s.statusWord = 0x0000#16 := by
  rw [State.statusWord, State.tier, State.complete, hrxbuf, herr, hok, hpass]
  decide

theorem inv_resetWith {p : Params} (h : p.wf = true) : Inv (State.resetWith p) where
  paramsWf := h
  errAssigned := Nat.zero_le _
  okAlone := nofun
  passAlone := nofun
  outBounded := Nat.zero_le _
  rxbufBounded := Nat.zero_le _

/-! ### The obligations on reset and hazards -/

/-- Settles O39: the commands after CRC_INIT stream the CRC_FEEDs' operands into the initial value of `CRC`. -/
theorem streamedCrcIgnoresOtherCommands : Obligations.StreamedCrcIgnoresOtherCommands := by
  intro s is hop
  obtain ⟨t, ht, hparams, hcrc⟩ := execAll_streams (s := (s.setCrc crcInitValue).succeed) (crcStep s.params.crcMode)
    State.crc .crcFeed fun i hi _ _ hu h => by rw [exec_folds_crc (hop i hi) h, hu]; rfl
  refine ⟨t, (execAll_cons_next (exec_crcInit s)).trans ht, ?_⟩
  rw [State.crcout, hparams, hcrc]
  rfl

/-- Settles O40: the commands after LRC_INIT stream the LRC_FEEDs' operands into 0. -/
theorem streamedLrcIgnoresOtherCommands : Obligations.StreamedLrcIgnoresOtherCommands := by
  intro s is hop
  obtain ⟨t, ht, -, hlrc⟩ := execAll_streams (s := (s.setLrc 0x00#8).succeed) (fun a b => a ^^^ b)
    State.lrc .lrcFeed fun i hi _ _ _ h => exec_folds_lrc (hop i hi) h
  exact ⟨t, (execAll_cons_next (exec_lrcInit s)).trans ht, hlrc⟩

/-- Settles O47: LEN of a built frame counts its payload, and payload, ETX and LRC stand after it. -/
theorem hostRuleCutsLrcFramesExactly : Obligations.HostRuleCutsLrcFramesExactly := by
  intro s t xs rest n h hok
  obtain ⟨-, rfl⟩ | ⟨hfit, rfl⟩ := execLrcEnc_cases h
  · cases hok
  have hlen (x : Byte) : (xs ++ [s.params.etxByte, x]).length =
      bigEndianLen (hi8 (BitVec.ofNat 16 xs.length)) (lo8 (BitVec.ofNat 16 xs.length)) + 2 := by
    rw [bigEndianLen_hi8_lo8 _ hfit, List.length_append]
    rfl
  rw [State.succeed_out, State.setOut_out, lrcFrame_eq_cons]
  exact ⟨hostLrcFrame_append (hlen _) rest, hostLrcFrame_take (hlen _)⟩

/-- Settles O10: the step is the reset, and both derived registers read their values from the reset state. -/
theorem resetSignalRestoresEveryElement : Obligations.ResetSignalRestoresEveryElement := fun _ _ h =>
  ⟨_, step_of_rst h, rfl, statusWord_of_no_outcome rfl rfl rfl rfl, rfl⟩

/-- Settles O11: the state that `RST` leaves with the default parameters and nothing issued after it. -/
theorem powerOnStateIsTheResetState : Obligations.PowerOnStateIsTheResetState := by
  refine ⟨fun s hparams hin => ?_, rfl, rfl, statusWord_of_no_outcome rfl rfl rfl rfl⟩
  rw [step_of_rst hin, hparams]
  rfl

/-- Settles O14: the default parameters are legal, and legal ones are all that the invariant asks of a reset state. -/
theorem resetMeetsTheInvariant : Obligations.ResetMeetsTheInvariant :=
  ⟨inv_resetWith (by decide), fun _ => inv_resetWith⟩

/-- Settles O25: the four commands one after the other, and LRC_DEC of input too short for a frame. -/
theorem reinitialisationSequence : Obligations.ReinitialisationSequence := by
  intro s
  have hrun : execAll [.lrcInit, .crcInit, .rxClear, .nop] s =
      .next (((s.setLrc 0x00#8).setCrc crcInitValue).setRxbuf []).succeed := by
    rw [execAll_cons_next (exec_lrcInit s), execAll_cons_next (exec_crcInit _)]
    exact execAll_pair (exec_rxClear _) (exec_nop _)
  exact ⟨⟨_, hrun, rfl, statusWord_succeed_of_rxbuf_nil rfl⟩,
    exec_lrcDec_of_parse (parseLrcFrame_notFramed (din := []) (.inl (Nat.zero_lt_succ 4)))⟩

end Sys2Proof.Machine
end
